-- ==== Sys2Proof/Word.lean ====
section
/-! DEFINITION. The two word widths of the machine (spec/00_scope.md R6: `DATA_W` = 4, `INSN_W` = 8). -/

namespace Sys2Proof

/-- A data word, an address, an opcode or an immediate: 4 bits (R6 `DATA_W`, `PC_W`, `OPC_W`, `IMM_W`). -/
abbrev Nibble := BitVec 4

/-- An instruction byte (R6 `INSN_W`, R44). -/
abbrev Byte := BitVec 8

end Sys2Proof
end

