-- ==== Sys2Proof/Syntax.lean ====
section
/-! DEFINITION. What an instruction is: the sixteen rows of spec/opcode_table.json, and the decoder entry
(`InstructionDescriptor`, spec/30_encoding.md R47 to R49) that the datapath runs on. -/

namespace Sys2Proof

/-- `OperandRole`, the seven roles of R47. -/
inductive Role where
  | programCounterTarget
  | inputPort
  | outputPort
  | registerA
  | registerB
  | memoryImmediate
  | constantUnused
  deriving DecidableEq, Repr

/-- The six operation kinds of R49 (`inp` is the kind IN). -/
inductive Kind where
  | add
  | mov
  | inp
  | out
  | jnc
  | jmp
  deriving DecidableEq, Repr

/-- `InstructionDescriptor`, the tuple `(kind, dest, op1, op2)` of R48. -/
structure Descriptor where
  kind : Kind
  dest : Role
  op1 : Role
  op2 : Role
  deriving DecidableEq, Repr

/-- A decoder table `DEC`: opcode to descriptor, or `none` (R7, R50). It is a parameter of the step (R25), not state. -/
abbrev DecTable := Nibble → Option Descriptor

/-- One constructor per row of spec/opcode_table.json, in the table's order.
Each holds the low nibble of its byte: `imm` where the row uses it, `low` where the row ignores it
(R53: it is still fetched into `IR` and visible there, and affects nothing else).
The four `undefined` rows are no instructions of the ISA (R54): they are the bytes without a decoder entry. -/
inductive Instr where
  | addAIm (imm : Nibble)
  | movAB (low : Nibble)
  | inA (low : Nibble)
  | movAIm (imm : Nibble)
  | movBA (low : Nibble)
  | addBIm (imm : Nibble)
  | inB (low : Nibble)
  | movBIm (imm : Nibble)
  | undefined8 (low : Nibble)
  | outB (low : Nibble)
  | undefinedA (low : Nibble)
  | outIm (imm : Nibble)
  | undefinedC (low : Nibble)
  | undefinedD (low : Nibble)
  | jncIm (imm : Nibble)
  | jmpIm (imm : Nibble)
  deriving DecidableEq, Repr

end Sys2Proof
end

