-- ==== Sys2Proof/Config.lean ====
section
/-! DEFINITION. What is fixed for the machine (spec/00_scope.md R6) and what the spec leaves without any value
(the state before the first Reset, R27). The decoder table's default stands in Decode.lean, the ROM image in State. -/

namespace Sys2Proof.Config

/-- R6 `ROM_SIZE`: addresses 0 to 15 exist. -/
def romSize : Nat := 16

/-- R6 `RF_SLOTS`. -/
def rfSlots : Nat := 5

/-- The status store has one slot (R20, R23). -/
def statusSlots : Nat := 1

/-- R6 `HALT_ADDR`, the end-of-ROM sentinel. -/
def haltAddr : Nat := 15

/-- R6 `RESET_PC`. -/
def resetPc : Nibble := 0

/-! The values the state elements have before the first Reset: unspecified (R27, R115, decision D8), so free values. -/

/-- Free value: `IR` before the first Reset (R27). -/
opaque powerOnIr : Byte
/-- Free value: `A` before the first Reset (R27). -/
opaque powerOnA : Nibble
/-- Free value: `B` before the first Reset (R27). -/
opaque powerOnB : Nibble
/-- Free value: `INP` before the first Reset (R27). -/
opaque powerOnInp : Nibble
/-- Free value: `OUTP` before the first Reset (R27). -/
opaque powerOnOutp : Nibble
/-- Free value: `pc` before the first Reset (R27). -/
opaque powerOnPc : Nibble
/-- Free value: `cf` before the first Reset (R27). -/
opaque powerOnCf : Bool
/-- Free value: `flt` before the first Reset (R27). -/
opaque powerOnFlt : Bool

end Sys2Proof.Config
end

