-- ==== Sys2Proof/WellFormed.lean ====
section
/-! DEFINITION. The checks on descriptors, decoder tables and instructions
(spec/30_encoding.md R50, R51, R54, R57; decision D14). -/

namespace Sys2Proof

/-- R51: the destinations a descriptor of each kind may name. -/
def Descriptor.wellFormed (d : Descriptor) : Bool :=
  match d.kind with
  | .add => d.dest = .outputPort || d.dest = .registerA || d.dest = .registerB
  | .mov => d.dest = .registerA || d.dest = .registerB
  | .inp => d.dest = .registerA || d.dest = .registerB
  | .out => true
  | .jmp => true
  | .jnc => true

/-- The sixteen opcodes. -/
def opcodes : List Nibble :=
  [0x0, 0x1, 0x2, 0x3, 0x4, 0x5, 0x6, 0x7, 0x8, 0x9, 0xA, 0xB, 0xC, 0xD, 0xE, 0xF]

/-- The six kinds. -/
def kinds : List Kind := [.add, .mov, .inp, .out, .jnc, .jmp]

/-- R50 item 1: the four opcodes that no table gives an entry. -/
def DecTable.lacksUndefined (dec : DecTable) : Bool :=
  (dec 0x8).isNone && (dec 0xA).isNone && (dec 0xC).isNone && (dec 0xD).isNone

/-- Some entry of the table satisfies `p`. -/
def DecTable.hasEntry (dec : DecTable) (p : Descriptor → Bool) : Bool :=
  opcodes.any fun o => (dec o).any p

/-- R50 item 2: every kind occurs. -/
def DecTable.coversKinds (dec : DecTable) : Bool :=
  kinds.all fun k => dec.hasEntry fun d => d.kind = k

/-- R50 item 3: an OUT entry whose contributing source is the immediate (the other operand resolves to 0 by R47). -/
def DecTable.hasOutImmediate (dec : DecTable) : Bool :=
  dec.hasEntry fun d => d.kind = .out &&
    ((d.op1 = .memoryImmediate && (d.op2 = .constantUnused || d.op2 = .outputPort || d.op2 = .programCounterTarget)) ||
     (d.op2 = .memoryImmediate && (d.op1 = .constantUnused || d.op1 = .outputPort || d.op1 = .programCounterTarget)))

/-- R50 item 4: every entry is well-formed in the sense of R51. -/
def DecTable.entriesWellFormed (dec : DecTable) : Bool :=
  opcodes.all fun o => (dec o).all Descriptor.wellFormed

/-- R50 items 1 to 4: a table the machine may be instantiated with; any other is refused (D14). -/
def DecTable.wellFormed (dec : DecTable) : Bool :=
  dec.lacksUndefined && dec.coversKinds && dec.hasOutImmediate && dec.entriesWellFormed

/-- R54, R55: a byte is either one of the table's instructions or undefined.
The immediates need no check: their 4-bit type is their range (R46). -/
def Instr.wellFormed : Instr → Bool
  | .addAIm _ => true
  | .movAB _ => true
  | .inA _ => true
  | .movAIm _ => true
  | .movBA _ => true
  | .addBIm _ => true
  | .inB _ => true
  | .movBIm _ => true
  | .undefined8 _ => false
  | .outB _ => true
  | .undefinedA _ => false
  | .outIm _ => true
  | .undefinedC _ => false
  | .undefinedD _ => false
  | .jncIm _ => true
  | .jmpIm _ => true

/-- R53, R57: the form the assembler emits, an unused low nibble being 0. -/
def Instr.assembled : Instr → Bool
  | .addAIm _ => true
  | .movAB low => low = 0
  | .inA low => low = 0
  | .movAIm _ => true
  | .movBA low => low = 0
  | .addBIm _ => true
  | .inB low => low = 0
  | .movBIm _ => true
  | .undefined8 _ => false
  | .outB low => low = 0
  | .undefinedA _ => false
  | .outIm _ => true
  | .undefinedC _ => false
  | .undefinedD _ => false
  | .jncIm _ => true
  | .jmpIm _ => true

end Sys2Proof
end

