-- ==== Sys2Proof/Decode.lean ====
section
/-! DEFINITION. The one instruction format (spec/30_encoding.md R44 to R46), the default decoder table (R52), the
decoder (R59) and the encoder. -/

namespace Sys2Proof

/-- `b[7:4]`, the high nibble: the opcode field of R45. -/
def Byte.high (b : Byte) : Nibble := b.extractLsb' 4 4

/-- `b[3:0]`, the low nibble: the immediate field of R45, R46. -/
def Byte.low (b : Byte) : Nibble := b.extractLsb' 0 4

/-- `DEC_DEFAULT`, R52, row by row (the last row is 0xF, the one opcode left). PRESUMED by the spec itself (decision D2; assumption log 2). -/
def decDefault : DecTable := fun o =>
  match o with
  | 0x0#4 => some ⟨.add, .registerA, .registerA, .memoryImmediate⟩
  | 0x1#4 => some ⟨.mov, .registerA, .registerB, .constantUnused⟩
  | 0x2#4 => some ⟨.inp, .registerA, .inputPort, .constantUnused⟩
  | 0x3#4 => some ⟨.mov, .registerA, .memoryImmediate, .constantUnused⟩
  | 0x4#4 => some ⟨.mov, .registerB, .registerA, .constantUnused⟩
  | 0x5#4 => some ⟨.add, .registerB, .registerB, .memoryImmediate⟩
  | 0x6#4 => some ⟨.inp, .registerB, .inputPort, .constantUnused⟩
  | 0x7#4 => some ⟨.mov, .registerB, .memoryImmediate, .constantUnused⟩
  | 0x8#4 => none
  | 0x9#4 => some ⟨.out, .outputPort, .registerB, .constantUnused⟩
  | 0xA#4 => none
  | 0xB#4 => some ⟨.out, .outputPort, .memoryImmediate, .constantUnused⟩
  | 0xC#4 => none
  | 0xD#4 => none
  | 0xE#4 => some ⟨.jnc, .programCounterTarget, .memoryImmediate, .constantUnused⟩
  | _ => some ⟨.jmp, .programCounterTarget, .memoryImmediate, .constantUnused⟩

/-- R59: `decode(byte) = DEC[byte[7:4]]`, for any table. -/
def decodeEntry (dec : DecTable) (b : Byte) : Option Descriptor := dec (Byte.high b)

/-- The row of spec/opcode_table.json that a byte belongs to: by its high nibble alone (R59), total
(the last row is 0xF, the one opcode left). -/
def decodeByte (b : Byte) : Instr :=
  match Byte.high b with
  | 0x0#4 => .addAIm (Byte.low b)
  | 0x1#4 => .movAB (Byte.low b)
  | 0x2#4 => .inA (Byte.low b)
  | 0x3#4 => .movAIm (Byte.low b)
  | 0x4#4 => .movBA (Byte.low b)
  | 0x5#4 => .addBIm (Byte.low b)
  | 0x6#4 => .inB (Byte.low b)
  | 0x7#4 => .movBIm (Byte.low b)
  | 0x8#4 => .undefined8 (Byte.low b)
  | 0x9#4 => .outB (Byte.low b)
  | 0xA#4 => .undefinedA (Byte.low b)
  | 0xB#4 => .outIm (Byte.low b)
  | 0xC#4 => .undefinedC (Byte.low b)
  | 0xD#4 => .undefinedD (Byte.low b)
  | 0xE#4 => .jncIm (Byte.low b)
  | _ => .jmpIm (Byte.low b)

/-- Why a list of bytes holds no instruction. -/
inductive DecodeReject where
  /-- There is no byte: an instruction is exactly one byte (R44). -/
  | noByte
  deriving DecidableEq, Repr

/-- The decoder on bytes: one instruction, and the bytes after it (R44: never more than one byte). -/
def decode : List Byte → Except DecodeReject (Instr × List Byte)
  | [] => .error .noByte
  | b :: rest => .ok (decodeByte b, rest)

/-- The byte of an instruction: opcode in bits 7 to 4, low nibble in bits 3 to 0 (R45, R52). -/
def encodeByte : Instr → Byte
  | .addAIm imm => 0b0000#4 ++ imm
  | .movAB low => 0b0001#4 ++ low
  | .inA low => 0b0010#4 ++ low
  | .movAIm imm => 0b0011#4 ++ imm
  | .movBA low => 0b0100#4 ++ low
  | .addBIm imm => 0b0101#4 ++ imm
  | .inB low => 0b0110#4 ++ low
  | .movBIm imm => 0b0111#4 ++ imm
  | .undefined8 low => 0b1000#4 ++ low
  | .outB low => 0b1001#4 ++ low
  | .undefinedA low => 0b1010#4 ++ low
  | .outIm imm => 0b1011#4 ++ imm
  | .undefinedC low => 0b1100#4 ++ low
  | .undefinedD low => 0b1101#4 ++ low
  | .jncIm imm => 0b1110#4 ++ imm
  | .jmpIm imm => 0b1111#4 ++ imm

/-- The words of an instruction: one byte (R44). -/
def encode (i : Instr) : List Byte := [encodeByte i]

/-- The bytes of an instruction whose bits are `w`, as spec/opcode_table.json numbers them (bit 0 the least significant
bit of the first byte): bits at `nbits` and above are 0, and an instruction is one byte (R44). -/
def tableBytes (nbits w : Nat) : List Byte := [BitVec.ofNat 8 (w % 2 ^ nbits)]

/-- What the decoder reads from an instruction whose bits are `w`; none where `nbits` is more than the one byte an
instruction has (R44). -/
def decodeTableWord (nbits w : Nat) : Option Instr :=
  if nbits ≤ 8 then
    match decode (tableBytes nbits w) with
    | .ok (i, _) => some i
    | .error _ => none
  else none

end Sys2Proof
end

