-- ==== Sys2Proof/Machine/State.lean ====
section
/-! DEFINITION. The whole state of CORE (spec/10_state.md R10 to R27), why a step can stop, and the state after Reset. -/

namespace Sys2Proof.Machine

/-- The report of a Step, R70: NTD4's `true` is `cont`, its `false` is `halt`. -/
inductive StepReport where
  | cont
  | halt
  | fatal
  deriving DecidableEq, Repr

/-- The causes of `raise Fatal`, R98. No register holds the cause. -/
inductive FatalCause where
  /-- R99: phase 2, the opcode has no decoder entry. -/
  | undefinedOpcode
  /-- R100: a Storage access outside the Storage. -/
  | storageRange
  deriving DecidableEq, Repr

/-- The label R98 gives a cause (decision D11). -/
def FatalCause.code : FatalCause → Nat
  | .undefinedOpcode => 1
  | .storageRange => 2

/-- The program ROM: (address, byte) pairs with strictly rising addresses below 16.
An address not listed holds no known byte (the image is OPEN, R42, D3; assumption log 1). -/
abbrev Memory := List Host.Cell

/-- The state of CORE. -/
structure State where
  /-- `IR` = `rf[0]`, R12. -/
  ir : Byte
  /-- `A` = `rf[1]`, R13. -/
  a : Nibble
  /-- `B` = `rf[2]`, R14. -/
  b : Nibble
  /-- `INP` = `rf[3]`, R15. -/
  inp : Nibble
  /-- `OUTP` = `rf[4]`, R16. -/
  outp : Nibble
  /-- `pc`, R18. -/
  pc : Nibble
  /-- `cf`, R20. -/
  cf : Bool
  /-- `flt`, the fatal latch, R21. -/
  flt : Bool
  /-- The last Step's report, held until the next Step or Reset (R70, D1); none since Reset (log 5). -/
  report : Option StepReport
  /-- The model's own bit: a Reset has been applied since power-on (R116, D8; log 6). -/
  everReset : Bool
  /-- The program ROM, R28: never written by a Step or a Reset (log 1). -/
  rom : Memory
  deriving DecidableEq, Repr

/-- Where the model stops because the spec holds no value to go on with. -/
inductive Fault where
  /-- Raised by the fetch: no byte was supplied for this ROM address, and the spec fixes none
  (R42, D3: the image is an OPEN parameter). Safe: nothing is claimed of a machine without its program. -/
  | romByteOpen (addr : Nat)
  deriving DecidableEq, Repr

/-- What the model gives no meaning. -/
inductive Refusal where
  /-- An instruction without a meaning yet; no arm of `exec` uses it. Safe. -/
  | notModelled (mnemonic : String)
  /-- Raised by `step`: a Step before the first Reset has no meaning (R116, D8, U3). Safe. -/
  | neverReset
  /-- Raised by `stepWith`: a decoder table that violates R50 or R51 is refused (D14, U5). Safe. -/
  | illFormedTable
  /-- Raised by `perform`: `SetInput` takes 0 to 15 only (R15, U12). Safe. -/
  | inputOutOfRange (v : Nat)
  deriving DecidableEq, Repr

/-- The machine right after Reset (R26), its ROM image not supplied (log 1). -/
def State.reset : State where
  ir := 0
  a := 0
  b := 0
  inp := 0
  outp := 0
  pc := Config.resetPc
  cf := false
  flt := false
  report := none
  everReset := true
  rom := []

/-- The machine at construction with the image `rom`, before any Reset: every element but the ROM is unspecified
(R27, R115), so it holds the free values of Config. -/
def State.powerOn (rom : Memory) : State where
  ir := Config.powerOnIr
  a := Config.powerOnA
  b := Config.powerOnB
  inp := Config.powerOnInp
  outp := Config.powerOnOutp
  pc := Config.powerOnPc
  cf := Config.powerOnCf
  flt := Config.powerOnFlt
  report := none
  everReset := false
  rom := rom

end Sys2Proof.Machine
end

