-- ==== Sys2Proof/Machine/Operands.lean ====
section
/-! DEFINITION. The Selector (spec/40_datapath.md R64) and the destinations of R47: every operand form there is. -/

namespace Sys2Proof.Machine

/-- `Sel(role)`, R64: the value of an operand role in the register file as it stands. -/
def State.sel (s : State) : Role → Nibble
  | .registerA => s.a
  | .registerB => s.b
  | .memoryImmediate => Byte.low s.ir
  | .inputPort => s.inp
  | .outputPort => 0
  | .programCounterTarget => 0
  | .constantUnused => 0

/-- Store into general register A or B; a role that is neither stores nothing (R74, `dest` of MOV and IN). -/
def State.storeRegister (s : State) (dest : Role) (v : Nibble) : State :=
  match dest with
  | .registerA => { s with a := v }
  | .registerB => { s with b := v }
  | .outputPort => s
  | .programCounterTarget => s
  | .memoryImmediate => s
  | .inputPort => s
  | .constantUnused => s

/-- Store into the output port, R16. -/
def State.storeOutput (s : State) (v : Nibble) : State := { s with outp := v }

end Sys2Proof.Machine
end

