-- ==== Sys2Proof/Machine/Flags.lean ====
section
/-! DEFINITION. The ALU and the carry flag (spec/40_datapath.md R62, R63, R73; spec/10_state.md R20). -/

namespace Sys2Proof.Machine

/-- `ALU.add`, R62: the sum as a natural number, without wrap. -/
def aluAdd (x y : Nibble) : Nat := x.toNat + y.toNat

/-- The stored result, R63: `sum mod 16`. -/
def aluResult (sum : Nat) : Nibble := BitVec.ofNat 4 sum

/-- The carry-out, R63: `sum > 15`. -/
def carryOut (sum : Nat) : Bool := decide (15 < sum)

/-- Phase 4's flag update, R73: a carry-out sets `cf`, its absence leaves `cf` as it was. -/
def State.raiseCarry (s : State) (sum : Nat) : State := { s with cf := s.cf || carryOut sum }

/-- The end of every JNC, R20, R74: `cf` is cleared. -/
def State.clearCarry (s : State) : State := { s with cf := false }

end Sys2Proof.Machine
end

