-- ==== Sys2Proof/Machine/Ops.lean ====
section
/-! DEFINITION. The named operations: the ROM and the other Storages, the program counter, raising a fatal condition and
leaving it by Reset, and the one path every instruction takes (spec/40_datapath.md, spec/60_exceptions.md). -/

namespace Sys2Proof.Machine

/-! ### The ROM as a memory -/

/-- The byte supplied for an address, if any (R28; log 1). -/
def Memory.read : Memory → Nat → Option Byte
  | [], _ => none
  | (x, v) :: rest, addr => if x = addr then some v else Memory.read rest addr

/-- Supply the byte of an address, keeping addresses strictly rising. No instruction does this (R39): it is how an image is
put in place from outside (log 1). -/
def Memory.write : Memory → Nat → Byte → Memory
  | [], addr, v => [(addr, v)]
  | (x, w) :: rest, addr, v =>
    if addr < x then (addr, v) :: (x, w) :: rest
    else if addr = x then (addr, v) :: rest
    else (x, w) :: Memory.write rest addr v

/-- Addresses rise strictly from `lo` on and stay below 16. -/
def Memory.wfFrom : Nat → Memory → Bool
  | _, [] => true
  | lo, (x, _) :: rest => decide (lo ≤ x) && decide (x < Config.romSize) && Memory.wfFrom (x + 1) rest

/-- The canonical form: strictly rising addresses of the ROM's range (R30). An unlisted address has no value, so no entry can
repeat it. -/
def Memory.wf (m : Memory) : Bool := Memory.wfFrom 0 m

/-- The image that holds `bytes` from address 0 on; a listing's position is its address (R57). -/
def Memory.ofBytes (bytes : List Byte) : Memory := bytes.zipIdx.map fun p => (p.2, p.1)

/-! ### The three Storages (R60) -/

/-- The three Storages of R60. -/
inductive Storage where
  | rom
  | registerFile
  | status
  deriving DecidableEq, Repr

/-- How many slots a Storage has (R60). -/
def Storage.size : Storage → Nat
  | .rom => Config.romSize
  | .registerFile => Config.rfSlots
  | .status => Config.statusSlots

/-- What a Storage read gives. -/
inductive StorageRead where
  /-- The stored value. -/
  | byte (v : Byte)
  /-- The address is outside the Storage: a contract violation, `Fatal(StorageRange)` (R100). -/
  | outOfRange
  /-- A ROM byte that was not supplied (D3; log 1). -/
  | romOpen (addr : Nat)
  deriving DecidableEq, Repr

/-- `rf[i]`, R7, R10: slot 0 is a byte, slots 1 to 4 hold 4 bits (R11). -/
def State.slot (s : State) : Nat → Option Byte
  | 0 => some s.ir
  | 1 => some (s.a.setWidth 8)
  | 2 => some (s.b.setWidth 8)
  | 3 => some (s.inp.setWidth 8)
  | 4 => some (s.outp.setWidth 8)
  | _ => none

/-- `rf[i] <- v`, R7: "writes mask to the machine's data width" (R11). -/
def State.setSlot (s : State) (i : Nat) (v : Byte) : Option State :=
  match i with
  | 0 => some { s with ir := v }
  | 1 => some { s with a := Byte.low v }
  | 2 => some { s with b := Byte.low v }
  | 3 => some { s with inp := Byte.low v }
  | 4 => some { s with outp := Byte.low v }
  | _ => none

/-- `Storage.read`, R60: the stored value, or a contract violation outside the Storage (R34). -/
def State.storageRead (s : State) (st : Storage) (addr : Nat) : StorageRead :=
  if st.size ≤ addr then .outOfRange
  else match st with
    | .rom =>
      match s.rom.read addr with
      | some v => .byte v
      | none => .romOpen addr
    | .registerFile =>
      match s.slot addr with
      | some v => .byte v
      | none => .outOfRange
    | .status => .byte (BitVec.ofNat 8 s.cf.toNat)

/-- `Storage.write`, R60, with the same range contract: none outside the Storage. The status slot holds one bit (R20).
The ROM's write is only the supply of its image (log 1). -/
def State.storageWrite (s : State) (st : Storage) (addr : Nat) (v : Byte) : Option State :=
  if st.size ≤ addr then none
  else match st with
    | .rom => some { s with rom := s.rom.write addr v }
    | .registerFile => s.setSlot addr v
    | .status => some { s with cf := v.getLsbD 0 }

/-- `Storage.reset` of the register file, R60: every slot 0. -/
def State.clearRegisterFile (s : State) : State := { s with ir := 0, a := 0, b := 0, inp := 0, outp := 0 }

/-- `Storage.reset` of the status store, R60: the flag 0. -/
def State.clearStatus (s : State) : State := { s with cf := false }

/-! ### The program counter (R61) and the ROM address path (R30) -/

/-- `increment()`, R61: no range check. -/
def pcIncrement (pc : Nat) : Nat := pc + 1

/-- The fetch address is always `pc` (R30). -/
def State.romAddress (s : State) : Nat := s.pc.toNat

/-! ### The fatal mechanism (R98) and Reset (R113) -/

/-- The Step makes the report `Fatal` (R68, R98). -/
def State.reportFatal (s : State) : State := { s with report := some .fatal }

/-- `raise Fatal(cause)`, R98: the latch is set, the rest of the Step is abandoned, the report is `Fatal`.
The cause is a label that no register holds (D11), so it leaves no trace in the state. -/
def State.raiseFatal (s : State) (_cause : FatalCause) : State := { s with flt := true }.reportFatal

/-- `Reset`, R113: register file, status, `pc` and latch cleared, the ROM intact. It is the only way out of a fatal state
(R103): there is no return from one (R112). -/
def State.applyReset (s : State) : State :=
  { s.clearRegisterFile.clearStatus with pc := Config.resetPc, flt := false, report := none, everReset := true }

/-- `SetInput(v)`, R15: `rf[3] <- v`, nothing else. -/
def State.setInput (s : State) (v : Nibble) : State := { s with inp := v }

/-! ### The phases of a Step after the fetch (R67) -/

/-- Phase 1's latch, R69: `rf[0] <- ` the fetched byte. -/
def State.latch (s : State) (byte : Byte) : State := { s with ir := byte }

/-- Phases 3 and 4, R72, R73: the sum of the two resolved operands. -/
def State.operandSum (s : State) (d : Descriptor) : Nat := aluAdd (s.sel d.op1) (s.sel d.op2)

/-- R75: the writeback stores into the output slot. -/
def writesOutput (d : Descriptor) : Bool :=
  d.kind = .out || (d.kind = .add && d.dest = .outputPort)

/-- Phase 5's store, R74: by kind, then by destination role. -/
def State.storeResult (s : State) (d : Descriptor) (res : Nibble) : State :=
  match d.kind with
  | .add => if d.dest = .outputPort then s.storeOutput res else s.storeRegister d.dest res
  | .mov => s.storeRegister d.dest res
  | .inp => s.storeRegister d.dest res
  | .out => s.storeOutput res
  | .jmp => s
  | .jnc => s

/-- Phase 5's output pulse, R75: a writeback that did not store into the output slot stores 0 there (D4; log 4). -/
def State.pulseOutput (s : State) (d : Descriptor) : State :=
  if writesOutput d then s else s.storeOutput 0

/-- Phase 5's program counter, R74, before the halt check: `cf` is the flag after phase 4. -/
def nextPc (k : Kind) (res : Nibble) (s : State) : Nat :=
  match k with
  | .add => pcIncrement s.pc.toNat
  | .mov => pcIncrement s.pc.toNat
  | .inp => pcIncrement s.pc.toNat
  | .out => pcIncrement s.pc.toNat
  | .jmp => res.toNat
  | .jnc => if s.cf then pcIncrement s.pc.toNat else res.toNat

/-- Phase 5's end of a JNC, R74: `cf <- 0` whichever way it went; no other kind touches `cf` here. -/
def State.consumeCarry (s : State) (k : Kind) : State :=
  match k with
  | .jnc => s.clearCarry
  | .add => s
  | .mov => s
  | .inp => s
  | .out => s
  | .jmp => s

/-- Phases 6 and 7, R76, R77: a counter of 15 or more after writeback is completion, `pc <- 0`; else go on at it. -/
def State.haltCheck (s : State) (target : Nat) : State :=
  if Config.haltAddr ≤ target then { s with pc := 0, report := some .halt }
  else { s with pc := BitVec.ofNat 4 target, report := some .cont }

/-- The state after phase 4, R73: the byte in `IR`, the carry raised. -/
def State.afterAdd (s : State) (d : Descriptor) (byte : Byte) : State :=
  (s.latch byte).raiseCarry ((s.latch byte).operandSum d)

/-- The result of phase 4, R73. -/
def State.addResult (s : State) (d : Descriptor) (byte : Byte) : Nibble := aluResult ((s.latch byte).operandSum d)

/-- The uniform path of every instruction, R80: a Step (R78) whose fetched byte is `byte` and whose decoder entry is `d`. -/
def State.runEntry (s : State) (d : Descriptor) (byte : Byte) : State :=
  let s4 := s.afterAdd d byte
  let res := s.addResult d byte
  (((s4.storeResult d res).pulseOutput d).consumeCarry d.kind).haltCheck (nextPc d.kind res s4)

/-- A Step whose fetched byte has no decoder entry, R99, R101: phase 1 is done, phase 2 raises `Fatal(UndefinedOpcode)`. -/
def State.runUndefined (s : State) (byte : Byte) : State := (s.latch byte).raiseFatal .undefinedOpcode

end Sys2Proof.Machine
end

