-- ==== Sys2Proof/Machine/Add.lean ====
section
/-! DEFINITION. The ADD family (spec/41_add.md R81 to R83): each instruction is the uniform path (R80) on its
decoder entry (R52), after its own byte was fetched into `IR` (R69). -/

namespace Sys2Proof.Machine

/-- `ADD A,Im`, R82: A plus the immediate into A; a carry-out sets `cf`. -/
def execAddAIm (imm : Nibble) (s : State) : Host.Outcome State Fault Refusal :=
  .next (s.runEntry ⟨.add, .registerA, .registerA, .memoryImmediate⟩ (encodeByte (.addAIm imm)))

/-- `ADD B,Im`, R83: B plus the immediate into B; a carry-out sets `cf`. -/
def execAddBIm (imm : Nibble) (s : State) : Host.Outcome State Fault Refusal :=
  .next (s.runEntry ⟨.add, .registerB, .registerB, .memoryImmediate⟩ (encodeByte (.addBIm imm)))

end Sys2Proof.Machine
end

