-- ==== Sys2Proof/Machine/Jump.lean ====
section
/-! DEFINITION. Control transfer (spec/44_jump.md R94 to R97): each instruction is the uniform path (R80) on its
decoder entry (R52), after its own byte was fetched into `IR` (R69). -/

namespace Sys2Proof.Machine

/-- `JMP Im`, R94: `pc` becomes the immediate; `cf` survives. -/
def execJmpIm (imm : Nibble) (s : State) : Host.Outcome State Fault Refusal :=
  .next (s.runEntry ⟨.jmp, .programCounterTarget, .memoryImmediate, .constantUnused⟩ (encodeByte (.jmpIm imm)))

/-- `JNC Im`, R95: `pc` becomes the immediate if `cf` is clear, else goes on; `cf` is cleared either way. -/
def execJncIm (imm : Nibble) (s : State) : Host.Outcome State Fault Refusal :=
  .next (s.runEntry ⟨.jnc, .programCounterTarget, .memoryImmediate, .constantUnused⟩ (encodeByte (.jncIm imm)))

end Sys2Proof.Machine
end

