-- ==== Sys2Proof/Machine/MovIn.lean ====
section
/-! DEFINITION. The MOV and IN families (spec/42_mov_in.md R84 to R90): each instruction is the uniform path (R80) on its
decoder entry (R52), after its own byte was fetched into `IR` (R69). -/

namespace Sys2Proof.Machine

/-- `MOV A,B`, R85: B into A; the low nibble is not added. -/
def execMovAB (low : Nibble) (s : State) : Host.Outcome State Fault Refusal :=
  .next (s.runEntry ⟨.mov, .registerA, .registerB, .constantUnused⟩ (encodeByte (.movAB low)))

/-- `MOV A,Im`, R86: the immediate into A. -/
def execMovAIm (imm : Nibble) (s : State) : Host.Outcome State Fault Refusal :=
  .next (s.runEntry ⟨.mov, .registerA, .memoryImmediate, .constantUnused⟩ (encodeByte (.movAIm imm)))

/-- `MOV B,A`, R87: A into B; the low nibble is not added. -/
def execMovBA (low : Nibble) (s : State) : Host.Outcome State Fault Refusal :=
  .next (s.runEntry ⟨.mov, .registerB, .registerA, .constantUnused⟩ (encodeByte (.movBA low)))

/-- `MOV B,Im`, R88: the immediate into B. -/
def execMovBIm (imm : Nibble) (s : State) : Host.Outcome State Fault Refusal :=
  .next (s.runEntry ⟨.mov, .registerB, .memoryImmediate, .constantUnused⟩ (encodeByte (.movBIm imm)))

/-- `IN A`, R89: the input port into A. -/
def execInA (low : Nibble) (s : State) : Host.Outcome State Fault Refusal :=
  .next (s.runEntry ⟨.inp, .registerA, .inputPort, .constantUnused⟩ (encodeByte (.inA low)))

/-- `IN B`, R90: the input port into B. -/
def execInB (low : Nibble) (s : State) : Host.Outcome State Fault Refusal :=
  .next (s.runEntry ⟨.inp, .registerB, .inputPort, .constantUnused⟩ (encodeByte (.inB low)))

end Sys2Proof.Machine
end

