-- ==== Sys2Proof/Machine/Out.lean ====
section
/-! DEFINITION. The OUT family (spec/43_out.md R91 to R93): each instruction is the uniform path (R80) on its
decoder entry (R52), after its own byte was fetched into `IR` (R69). -/

namespace Sys2Proof.Machine

/-- `OUT B`, R92: B onto the output port; the low nibble is not added. -/
def execOutB (low : Nibble) (s : State) : Host.Outcome State Fault Refusal :=
  .next (s.runEntry ⟨.out, .outputPort, .registerB, .constantUnused⟩ (encodeByte (.outB low)))

/-- `OUT Im`, R93: the immediate onto the output port. -/
def execOutIm (imm : Nibble) (s : State) : Host.Outcome State Fault Refusal :=
  .next (s.runEntry ⟨.out, .outputPort, .memoryImmediate, .constantUnused⟩ (encodeByte (.outIm imm)))

end Sys2Proof.Machine
end

