-- ==== Sys2Proof/Machine/Undefined.lean ====
section
/-! DEFINITION. The four opcodes without a decoder entry (spec/30_encoding.md R54, spec/60_exceptions.md R99, R101): each Step
takes the fatal condition the spec describes, a next state with the latch set (assumption log 3). -/

namespace Sys2Proof.Machine

/-- Opcode 0x8, R99: no decoder entry, `Fatal(UndefinedOpcode)`. -/
def execUndefined8 (low : Nibble) (s : State) : Host.Outcome State Fault Refusal :=
  .next (s.runUndefined (encodeByte (.undefined8 low)))

/-- Opcode 0xA, R99: no decoder entry, `Fatal(UndefinedOpcode)`. -/
def execUndefinedA (low : Nibble) (s : State) : Host.Outcome State Fault Refusal :=
  .next (s.runUndefined (encodeByte (.undefinedA low)))

/-- Opcode 0xC, R99: no decoder entry, `Fatal(UndefinedOpcode)`. -/
def execUndefinedC (low : Nibble) (s : State) : Host.Outcome State Fault Refusal :=
  .next (s.runUndefined (encodeByte (.undefinedC low)))

/-- Opcode 0xD, R99: no decoder entry, `Fatal(UndefinedOpcode)`. -/
def execUndefinedD (low : Nibble) (s : State) : Host.Outcome State Fault Refusal :=
  .next (s.runUndefined (encodeByte (.undefinedD low)))

end Sys2Proof.Machine
end

