-- ==== Sys2Proof/Machine/Dispatch.lean ====
section
/-! DEFINITION. One arm per row of spec/opcode_table.json: the Step of a fetched instruction, from the fetch's latch to the
halt check. -/

namespace Sys2Proof.Machine

def exec (i : Instr) (s : State) : Host.Outcome State Fault Refusal :=
  match i with
  | .addAIm imm => Sys2Proof.Machine.execAddAIm imm s
  | .movAB low => Sys2Proof.Machine.execMovAB low s
  | .inA low => Sys2Proof.Machine.execInA low s
  | .movAIm imm => Sys2Proof.Machine.execMovAIm imm s
  | .movBA low => Sys2Proof.Machine.execMovBA low s
  | .addBIm imm => Sys2Proof.Machine.execAddBIm imm s
  | .inB low => Sys2Proof.Machine.execInB low s
  | .movBIm imm => Sys2Proof.Machine.execMovBIm imm s
  | .undefined8 low => Sys2Proof.Machine.execUndefined8 low s
  | .outB low => Sys2Proof.Machine.execOutB low s
  | .undefinedA low => Sys2Proof.Machine.execUndefinedA low s
  | .outIm imm => Sys2Proof.Machine.execOutIm imm s
  | .undefinedC low => Sys2Proof.Machine.execUndefinedC low s
  | .undefinedD low => Sys2Proof.Machine.execUndefinedD low s
  | .jncIm imm => Sys2Proof.Machine.execJncIm imm s
  | .jmpIm imm => Sys2Proof.Machine.execJmpIm imm s

end Sys2Proof.Machine
end

