-- ==== Sys2Proof/Machine/Fetch.lean ====
section
/-! DEFINITION. What comes before an instruction runs: the refusal of an unreset machine (spec/70_reset_and_hazards.md R116),
the fatal check (spec/40_datapath.md R68) and the fetch (R69); and the placing of ROM bytes from outside (log 1). -/

namespace Sys2Proof.Machine

/-- How the front of a Step ends. -/
inductive Front where
  /-- The Step is over. -/
  | done (o : Host.Outcome State Fault Refusal)
  /-- The byte at `pc` was read; the Step goes on with it. -/
  | fetched (byte : Byte)

/-- Phases 0 and 1 in the order of R105: a never-reset machine is refused (R116, D8); with the latch set nothing changes and
the report is `Fatal` (R68, R102); then the ROM is read at `pc` (R69), outside its range with `Fatal(StorageRange)`. -/
def State.front (s : State) : Front :=
  if !s.everReset then .done (.refused .neverReset)
  else if s.flt then .done (.next s.reportFatal)
  else match s.storageRead .rom s.romAddress with
    | .byte v => .fetched v
    | .outOfRange => .done (.next (s.raiseFatal .storageRange))
    | .romOpen addr => .done (.fault (.romByteOpen addr))

/-- The machine with the image `rom` in place of its own. -/
def State.withRom (s : State) (rom : Memory) : State := { s with rom := rom }

/-- `s` with the bytes `bytes` (one instruction: the first byte) placed at `pc`, ready to step: reset once and not latched. -/
def State.placeAtPc (s : State) (bytes : List Byte) : State :=
  match bytes with
  | [] => s
  | v :: _ => { s with rom := s.rom.write s.romAddress v, everReset := true, flt := false }

end Sys2Proof.Machine
end

