-- ==== Sys2Proof/Machine/Step.lean ====
section
/-! DEFINITION. One Step of CORE (spec/40_datapath.md R67, R78) with the default decoder table, and the placing of one
instruction where the next Step fetches. -/

namespace Sys2Proof.Machine

/-- One `Step` (R78): the front (R68, R69), then the instruction that the fetched byte is (R71). -/
def step (s : State) : Host.Outcome State Fault Refusal :=
  match s.front with
  | .done o => o
  | .fetched byte => exec (decodeByte byte) s

/-- `s` with the instruction whose bits are `w` placed in the ROM at `pc`, so that the next Step fetches and runs it
(log 1): besides the ROM byte the fetch needs only the machine reset once and the latch clear. -/
def State.withFetchWord (s : State) (nbits w : Nat) : State := s.placeAtPc (tableBytes nbits w)

end Sys2Proof.Machine
end

