-- ==== Sys2Proof/Machine/Assembler.lean ====
section
/-! DEFINITION. The assembler lines of spec/30_encoding.md R57 and the two pseudo-instructions of R58 (decision D9; notation
only, no rule of the machine depends on it). -/

namespace Sys2Proof.Machine

/-- The lines of R57, and the pseudo-instructions `HALT` and `NOP` of R58. `Im` is the number as written. -/
inductive AsmLine where
  | addAIm (im : Nat)
  | addBIm (im : Nat)
  | movAB
  | movBA
  | movAIm (im : Nat)
  | movBIm (im : Nat)
  | inA
  | inB
  | outB
  | outIm (im : Nat)
  | jncIm (im : Nat)
  | jmpIm (im : Nat)
  | halt
  | nop
  deriving DecidableEq, Repr

/-- `Im` is 0 to 15 (R57). -/
def asmImmediate (im : Nat) : Option Nibble := if im < 16 then some (BitVec.ofNat 4 im) else none

/-- The instruction of a line: an unused immediate is assembled as 0 (R57), `HALT` is `JMP 15`, `NOP` is `ADD A,0` (R58). -/
def AsmLine.assemble : AsmLine → Option Instr
  | .addAIm im => (asmImmediate im).map .addAIm
  | .addBIm im => (asmImmediate im).map .addBIm
  | .movAB => some (.movAB 0)
  | .movBA => some (.movBA 0)
  | .movAIm im => (asmImmediate im).map .movAIm
  | .movBIm im => (asmImmediate im).map .movBIm
  | .inA => some (.inA 0)
  | .inB => some (.inB 0)
  | .outB => some (.outB 0)
  | .outIm im => (asmImmediate im).map .outIm
  | .jncIm im => (asmImmediate im).map .jncIm
  | .jmpIm im => (asmImmediate im).map .jmpIm
  | .halt => some (.jmpIm 15)
  | .nop => some (.addAIm 0)

/-- The image of a listing: the position of a line, 0 to 15, is its address (R57). -/
def assembleImage (lines : List AsmLine) : Option Memory :=
  if lines.length ≤ Config.romSize then
    (lines.mapM AsmLine.assemble).map fun is => Memory.ofBytes (is.map encodeByte)
  else none

/-- The spelling of a byte's row, R57, the destination first; an undefined opcode has none. -/
def asmText : Instr → Option String
  | .addAIm imm => some ("ADD A," ++ toString imm.toNat)
  | .movAB _ => some "MOV A,B"
  | .inA _ => some "IN A"
  | .movAIm imm => some ("MOV A," ++ toString imm.toNat)
  | .movBA _ => some "MOV B,A"
  | .addBIm imm => some ("ADD B," ++ toString imm.toNat)
  | .inB _ => some "IN B"
  | .movBIm imm => some ("MOV B," ++ toString imm.toNat)
  | .undefined8 _ => none
  | .outB _ => some "OUT B"
  | .undefinedA _ => none
  | .outIm imm => some ("OUT " ++ toString imm.toNat)
  | .undefinedC _ => none
  | .undefinedD _ => none
  | .jncIm imm => some ("JNC " ++ toString imm.toNat)
  | .jmpIm imm => some ("JMP " ++ toString imm.toNat)

end Sys2Proof.Machine
end

