-- ==== Sys2Proof/Machine/Environment.lean ====
section
/-! DEFINITION. What the environment can do to CORE (spec/70_reset_and_hazards.md R119), the clocked form of it (decision D1),
the outputs, and a run (R124). -/

namespace Sys2Proof.Machine

/-- The operations of R119 that act on CORE; `setInput` takes any number and is refused above 15 (U12). -/
inductive HostOp where
  | reset
  | step
  | setInput (v : Nat)
  deriving DecidableEq, Repr

/-- One operation, atomic (R120). -/
def perform (op : HostOp) (s : State) : Host.Outcome State Fault Refusal :=
  match op with
  | .reset => .next s.applyReset
  | .step => step s
  | .setInput v => if v < 16 then .next (s.setInput (BitVec.ofNat 4 v)) else .refused (.inputOutOfRange v)

/-- Operations one after the other, up to the first stop (R120: totally ordered). -/
def runOps : List HostOp → State → Host.Outcome State Fault Refusal
  | [], s => .next s
  | op :: ops, s =>
    match perform op s with
    | .next t => runOps ops t
    | .fault f => .fault f
    | .refused r => .refused r

/-- One clock cycle, D1: `rst` performs Reset and has priority over `step_en`; with neither all state holds. -/
def clockCycle (rst stepEn : Bool) (s : State) : Host.Outcome State Fault Refusal :=
  if rst then perform .reset s else if stepEn then perform .step s else .next s

/-- The port `out[3:0]`, R16, R119. -/
def State.output (s : State) : Nibble := s.outp

/-- The output `halt`, R70. -/
def State.haltSignal (s : State) : Bool := s.report = some .halt

/-- The output `fatal`, R70. -/
def State.fatalSignal (s : State) : Bool := s.report = some .fatal

/-- How a run stands after some Steps (R124). -/
inductive RunEnd where
  /-- The last Step reported `Halt`. -/
  | completed (s : State)
  /-- The last Step reported `Fatal`. -/
  | faulted (s : State)
  /-- Every Step so far reported `Continue`. -/
  | running (s : State)
  /-- A Step had no outcome in the model. -/
  | stopped
  deriving DecidableEq, Repr

/-- A run, R124: Steps up to and including the first that reports `Halt` or `Fatal`, at most `n` of them (the driver may stop
at any time, R118). -/
def runUntilEnd : Nat → State → RunEnd
  | 0, s => .running s
  | n + 1, s =>
    match step s with
    | .next t =>
      match t.report with
      | some .halt => .completed t
      | some .fatal => .faulted t
      | some .cont => runUntilEnd n t
      | none => runUntilEnd n t
    | .fault _ => .stopped
    | .refused _ => .stopped

end Sys2Proof.Machine
end

