-- ==== Sys2Proof/Machine/Table.lean ====
section
/-! DEFINITION. The Step for any decoder table `DEC` (spec/40_datapath.md R78 with its parameter, decision D2), and R78 once
more as one closed form, each primed value written from the unprimed ones (spec/00_scope.md R7). -/

namespace Sys2Proof.Machine

/-- Phases 2 to 7 for the fetched byte, R71 to R77, with the decoder table `dec`. -/
def State.runTable (dec : DecTable) (byte : Byte) (s : State) : State :=
  match decodeEntry dec byte with
  | none => s.runUndefined byte
  | some d => s.runEntry d byte

/-- The Step of a machine instantiated with `dec`; a table that violates R50 or R51 is refused (D14). -/
def stepWith (dec : DecTable) (s : State) : Host.Outcome State Fault Refusal :=
  if !dec.wellFormed then .refused .illFormedTable
  else match s.front with
    | .done o => o
    | .fetched byte => .next (s.runTable dec byte)

/-- `pc` after the writeback of R78, before its halt check. -/
def closedPc (d : Descriptor) (sum : Nat) (cf : Bool) (s : State) : Nat :=
  if d.kind = .jmp ∨ (d.kind = .jnc ∧ cf = false) then sum % 16 else s.pc.toNat + 1

/-- R78 in closed form, for a Step that has fetched `byte` with the latch clear. -/
def State.closedStep (dec : DecTable) (byte : Byte) (s : State) : State :=
  match dec (Byte.high byte) with
  | none => { s with ir := byte, flt := true, report := some .fatal }
  | some d =>
    let seen : State := { s with ir := byte }
    let sum := (seen.sel d.op1).toNat + (seen.sel d.op2).toNat
    let res : Nibble := BitVec.ofNat 4 (sum % 16)
    let cf4 := s.cf || decide (sum > 15)
    let toRegister := d.kind = .add ∨ d.kind = .mov ∨ d.kind = .inp
    let toOutput := d.kind = .out ∨ (d.kind = .add ∧ d.dest = .outputPort)
    let pc5 := closedPc d sum cf4 s
    { ir := byte
      a := if toRegister ∧ d.dest = .registerA then res else s.a
      b := if toRegister ∧ d.dest = .registerB then res else s.b
      inp := s.inp
      outp := if toOutput then res else 0
      pc := if pc5 ≥ 15 then 0 else BitVec.ofNat 4 pc5
      cf := if d.kind = .jnc then false else cf4
      flt := s.flt
      report := if pc5 ≥ 15 then some .halt else some .cont
      everReset := s.everReset
      rom := s.rom }

end Sys2Proof.Machine
end

