-- ==== Sys2Proof/Safety.lean ====
section
/-! DEFINITION. The terms claims are stated in: where a Step lands, what it leaves alone, the invariant of the machine, a
faulted state, and the hypotheses on the built-in image. -/

namespace Sys2Proof.Machine

/-- `t` is where a Step lands whose program counter after writeback is `target` (R76, R77): at 15 or more `pc` is 0 and the
report is `Halt`, below 15 `pc` is the target and the report is `Continue`. -/
def Landed (target : Nat) (t : State) : Prop :=
  (15 ≤ target → t.pc = 0 ∧ t.report = some .halt) ∧
  (target < 15 → t.pc.toNat = target ∧ t.report = some .cont)

/-- What no instruction of the ISA changes: the input port (R15), the latch (R98 apart), the reset bit, and every byte of the
ROM (R39). -/
def StepFrame (s t : State) : Prop :=
  t.inp = s.inp ∧ t.flt = s.flt ∧ t.everReset = s.everReset ∧ ∀ addr, t.rom.read addr = s.rom.read addr

/-- The invariant of CORE between operations, once reset: `pc` is 0 to 14 (R19), the latch is set exactly when the last
report is `Fatal` (R70), the machine has been reset (R116), and the ROM is in canonical form. -/
def State.Inv (s : State) : Prop :=
  s.pc.toNat ≤ 14 ∧ (s.flt = true ↔ s.report = some .fatal) ∧ s.everReset = true ∧ s.rom.wf = true

/-- A fault state in the sense of R101: never final, left by Reset alone. -/
def State.Faulted (s : State) : Prop := s.flt = true

/-- A safe run from `s`: no number of Steps ends in `Fatal` (R124). -/
def NeverFatal (s : State) : Prop := ∀ n t, runUntilEnd n s ≠ .faulted t

/-- Two images that hold the same bytes at the executable addresses 0 to 14 (R30). -/
def AgreeBelow15 (r r' : Memory) : Prop := ∀ addr, addr < 15 → r.read addr = r'.read addr

/-- The hypotheses of R42 on the built-in image (item 6 says only that it is a constant).
DESIGN CHOICE (log 9): item 1's words "counting/blinking demo" and "nested ADD/JNC loops" are no hypothesis here, as the spec
does not say what shape of image they mean; of its list "IN, OUT, JMP at address 15" the field `exercises` gives IN and OUT,
and `endsWithJmp` the JMP. -/
structure BuiltInImage (rom : Memory) : Prop where
  /-- "a fixed 16-byte ROM image". -/
  full : ∀ addr, addr < 16 → (rom.read addr).isSome = true
  /-- Item 1, "exercising every opcode": every opcode with an entry occurs (DEDUCED; log 9). -/
  exercises : ∀ o d, decDefault o = some d → ∃ addr v, addr < 16 ∧ rom.read addr = some v ∧ Byte.high v = o
  /-- Item 2: `ROM[0]` outputs the immediate. -/
  startsWithOut : ∃ v d, rom.read 0 = some v ∧ decodeEntry decDefault v = some d ∧ d.kind = .out ∧ d.op1 = .memoryImmediate
  /-- Item 3: `ROM[15]` is a JMP. -/
  endsWithJmp : ∃ v d, rom.read 15 = some v ∧ decodeEntry decDefault v = some d ∧ d.kind = .jmp
  /-- Item 4: no fatal error in a full run. -/
  noFatal : NeverFatal (State.reset.withRom rom)
  /-- Item 5: a run from a fresh reset completes. -/
  completes : ∃ n t, runUntilEnd n (State.reset.withRom rom) = .completed t

end Sys2Proof.Machine
end

