-- ==== Sys2Proof/Certificates/Slice0/Obligations.lean ====
section
/-! DEFINITION. The statements for the provers, in the order of OBLIGATIONS.json. -/

open Sys2Proof Sys2Proof.Machine

/-! ### Encoding -/

/-- Decoding an encoded instruction gives it back, every operand at every value, and leaves the following bytes. -/
def Obligations.DecodeOfEncode : Prop :=
  ∀ (i : Instr) (rest : List Byte), decode (encode i ++ rest) = .ok (i, rest)

/-- Every byte decodes, whatever follows it, to the one term of `Instr` whose encoding it is; no byte at all is refused by
name. That a term keeps the low nibble a row ignores, so that terms and bytes correspond one to one, and that the undefined
rows are terms, is the model's choice (DESIGN CHOICE, log 10): by R53 the sixteen bytes of such a row are one instruction. -/
def Obligations.EveryByteIsOneInstruction : Prop :=
  decode [] = .error .noByte ∧
  ∀ (v : Byte) (rest : List Byte), ∃ i : Instr, decode (v :: rest) = .ok (i, rest) ∧ encode i = [v] ∧
    ∀ j : Instr, encode j = [v] → j = i

/-- Bytes written out from the examples of spec/41_add.md to spec/44_jump.md and spec/60_exceptions.md. The opcodes are those
of the spec's default table (R52, its decision D2, log 2). -/
def Obligations.SpecExampleBytesDecode : Prop :=
  decode [0x03] = .ok (.addAIm 3, []) ∧ decode [0x58] = .ok (.addBIm 8, []) ∧ decode [0x10] = .ok (.movAB 0, []) ∧
  decode [0x3D] = .ok (.movAIm 13, []) ∧ decode [0x40] = .ok (.movBA 0, []) ∧ decode [0x7F] = .ok (.movBIm 15, []) ∧
  decode [0x20] = .ok (.inA 0, []) ∧ decode [0x60] = .ok (.inB 0, []) ∧ decode [0x90] = .ok (.outB 0, []) ∧
  decode [0xB7] = .ok (.outIm 7, []) ∧ decode [0xF2] = .ok (.jmpIm 2, []) ∧ decode [0xE1] = .ok (.jncIm 1, []) ∧
  decode [0x80] = .ok (.undefined8 0, []) ∧ decode [0xA5] = .ok (.undefinedA 5, []) ∧
  decode [0xC0] = .ok (.undefinedC 0, []) ∧ decode [0xDF] = .ok (.undefinedD 15, [])

/-- The bytes without an entry in the default table are 0x80 to 0x8F, 0xA0 to 0xAF and 0xC0 to 0xDF, and they are the bytes
of the ill-formed instructions. Default table: R52, decision D2, log 2. -/
def Obligations.UndefinedBytesAreExactly : Prop :=
  ∀ v : Byte,
    (decodeEntry decDefault v = none ↔
      (0x80 ≤ v.toNat ∧ v.toNat ≤ 0x8F) ∨ (0xA0 ≤ v.toNat ∧ v.toNat ≤ 0xAF) ∨ (0xC0 ≤ v.toNat ∧ v.toNat ≤ 0xDF)) ∧
    ((decodeByte v).wellFormed = false ↔ decodeEntry decDefault v = none)

/-- The low nibble of an instruction without immediate reaches `IR` and nothing else (R53, which the spec derives from its
default table: the opcodes and the constant 0 as second operand are its decision D2, PRESUMED, log 2). -/
def Obligations.UnusedLowNibbleOnlyInIr : Prop :=
  ∀ (s : State) (low : Nibble),
    (∃ t, exec (.movAB 0) s = .next t ∧ exec (.movAB low) s = .next { t with ir := 0b0001#4 ++ low }) ∧
    (∃ t, exec (.inA 0) s = .next t ∧ exec (.inA low) s = .next { t with ir := 0b0010#4 ++ low }) ∧
    (∃ t, exec (.movBA 0) s = .next t ∧ exec (.movBA low) s = .next { t with ir := 0b0100#4 ++ low }) ∧
    (∃ t, exec (.inB 0) s = .next t ∧ exec (.inB low) s = .next { t with ir := 0b0110#4 ++ low }) ∧
    (∃ t, exec (.outB 0) s = .next t ∧ exec (.outB low) s = .next { t with ir := 0b1001#4 ++ low })

/-! ### The step -/

/-- When the ROM byte at `pc` decodes to `i`, in a machine once reset and not latched, `step` is `exec i`, which leaves that
byte in `IR`; nothing else is added around `exec`. That `exec` answers a next state for the undefined opcodes too, where R99
asks for a fault, is the model's reading (the latched state is that fault: D7, DEDUCED, log 3). -/
def Obligations.StepRunsDecodedInstruction : Prop :=
  ∀ (s : State) (v : Byte) (i : Instr), s.everReset = true → s.flt = false → s.rom.read s.pc.toNat = some v →
    decode [v] = .ok (i, []) → step s = exec i s ∧ ∃ t, exec i s = .next t ∧ t.ir = v

/-- The machine that runs decoded instructions is the machine of the parameterised Step at the spec's default table
(R52, R78, decisions D2 and D14, log 2), in every state. -/
def Obligations.StepIsTableStepAtDefault : Prop :=
  ∀ s : State, step s = stepWith decDefault s

/-- For every well-formed decoder table, the phased Step is R78 in closed form (R78 is derived by the spec; D2, D4, D7). -/
def Obligations.TableStepIsClosedForm : Prop :=
  ∀ (dec : DecTable) (s : State) (v : Byte), dec.wellFormed = true → s.everReset = true → s.flt = false →
    s.rom.read s.pc.toNat = some v → stepWith dec s = .next (s.closedStep dec v)

/-- The parameterised Step refuses by name, in every state, exactly the tables that violate R50 items 1 to 4 or R51 (the
spec's decision D14): an entry at 0x8, 0xA, 0xC or 0xD; a kind that does not occur; no OUT of the immediate; an ADD, MOV or IN
entry whose destination is outside its list. The default table is accepted. That the immediate contributes to an OUT when the
other operand is a role that resolves to 0 is the model's reading (DEDUCED, log 9). -/
def Obligations.IllFormedTableIsRefused : Prop :=
  decDefault.wellFormed = true ∧
  ∀ (dec : DecTable) (s : State), stepWith dec s = .refused .illFormedTable ↔
    (∃ o ∈ [0x8#4, 0xA#4, 0xC#4, 0xD#4], dec o ≠ none) ∨
    (∃ k : Kind, ∀ o d, dec o = some d → d.kind ≠ k) ∨
    (∀ o d, dec o = some d → d.kind = .out →
      ¬ (d.op1 = .memoryImmediate ∧ d.op2 ∈ [Role.constantUnused, .outputPort, .programCounterTarget]) ∧
      ¬ (d.op2 = .memoryImmediate ∧ d.op1 ∈ [Role.constantUnused, .outputPort, .programCounterTarget])) ∨
    (∃ o d, dec o = some d ∧
      ((d.kind = .add ∧ d.dest ≠ .outputPort ∧ d.dest ≠ .registerA ∧ d.dest ≠ .registerB) ∨
       ((d.kind = .mov ∨ d.kind = .inp) ∧ d.dest ≠ .registerA ∧ d.dest ≠ .registerB)))

/-! ### The datapath, for any decoder entry -/

/-- R64: what the Selector gives for each role, read from the register file after the byte was latched. -/
def Obligations.SelectorMap : Prop :=
  (∀ s : State, s.sel .registerA = s.a ∧ s.sel .registerB = s.b ∧ (s.sel .memoryImmediate).toNat = s.ir.toNat % 16 ∧
    s.sel .inputPort = s.inp ∧ s.sel .outputPort = 0 ∧ s.sel .programCounterTarget = 0 ∧ s.sel .constantUnused = 0) ∧
  (∀ (s : State) (role : Role) (v : Byte),
    (s.runEntry ⟨.mov, .registerA, role, .constantUnused⟩ v).a = ({ s with ir := v } : State).sel role ∧
    (s.runEntry ⟨.mov, .registerB, .constantUnused, role⟩ v).b = ({ s with ir := v } : State).sel role)

/-- R73: the sum of the two operands, masked, and the carry raised by every kind before writeback, so that a JNC tests the
carry as its own phase 4 left it. (What R73 says of the default table's JNC is the spec's own derivation, not stated here.) -/
def Obligations.ExecutePhaseAddsAndRaisesCarry : Prop :=
  ∀ (s : State) (d : Descriptor) (v : Byte),
    let seen : State := { s with ir := v }
    let sum := (seen.sel d.op1).toNat + (seen.sel d.op2).toNat
    (sum > 15 → (s.addResult d v).toNat = sum % 16 ∧ s.afterAdd d v = { s with ir := v, cf := true }) ∧
    (sum ≤ 15 → (s.addResult d v).toNat = sum ∧ s.afterAdd d v = { s with ir := v }) ∧
    (d.kind ≠ .jnc → (s.runEntry d v).cf = (s.afterAdd d v).cf) ∧
    (d.kind = .jnc → Landed (if (s.afterAdd d v).cf then s.pc.toNat + 1 else sum % 16) (s.runEntry d v))

/-- R74: the writeback of each kind, its program counter before the halt check, and the destinations a well-formed table can
name. -/
def Obligations.WritebackByKind : Prop :=
  (∀ (s : State) (d : Descriptor) (v : Byte),
    let res := s.addResult d v
    let t := s.runEntry d v
    (d.kind = .add → (d.dest = .registerA → t.a = res) ∧ (d.dest = .registerB → t.b = res) ∧
      (d.dest = .outputPort → t.outp = res) ∧ (d.dest ≠ .registerA → t.a = s.a) ∧ (d.dest ≠ .registerB → t.b = s.b) ∧
      Landed (s.pc.toNat + 1) t) ∧
    (d.kind = .mov ∨ d.kind = .inp → (d.dest = .registerA → t.a = res) ∧ (d.dest = .registerB → t.b = res) ∧
      (d.dest ≠ .registerA → t.a = s.a) ∧ (d.dest ≠ .registerB → t.b = s.b) ∧ Landed (s.pc.toNat + 1) t) ∧
    (d.kind = .out → t.outp = res ∧ t.a = s.a ∧ t.b = s.b ∧ Landed (s.pc.toNat + 1) t) ∧
    (d.kind = .jmp → t.a = s.a ∧ t.b = s.b ∧ Landed res.toNat t) ∧
    (d.kind = .jnc → t.a = s.a ∧ t.b = s.b ∧ t.cf = false ∧
      ((s.afterAdd d v).cf = false → Landed res.toNat t) ∧
      ((s.afterAdd d v).cf = true → Landed (s.pc.toNat + 1) t))) ∧
  (∀ (s : State) (dest op1 op2 : Role) (v : Byte),
    s.runEntry ⟨.mov, dest, op1, op2⟩ v = s.runEntry ⟨.inp, dest, op1, op2⟩ v) ∧
  (∀ (dec : DecTable) (o : Nibble) (d : Descriptor), dec.wellFormed = true → dec o = some d →
    (d.kind = .add → d.dest = .registerA ∨ d.dest = .registerB ∨ d.dest = .outputPort) ∧
    (d.kind = .mov ∨ d.kind = .inp → d.dest = .registerA ∨ d.dest = .registerB))

/-- The kind ADD for any descriptor (41_add.md); the default table (D2, log 2) has no ADD entry to the output port, so there
`OUTP` gets 0 (D4, log 4). -/
def Obligations.AddKindForAnyDescriptor : Prop :=
  (∀ (s : State) (dest op1 op2 : Role) (v : Byte),
    let seen : State := { s with ir := v }
    let sum := (seen.sel op1).toNat + (seen.sel op2).toNat
    let t := s.runEntry ⟨.add, dest, op1, op2⟩ v
    (dest = .outputPort → t.outp.toNat = sum % 16 ∧ t.a = s.a ∧ t.b = s.b) ∧
    (dest = .registerA → t.a.toNat = sum % 16 ∧ t.b = s.b) ∧
    (dest = .registerB → t.b.toNat = sum % 16 ∧ t.a = s.a) ∧
    (t.cf = true ↔ s.cf = true ∨ sum > 15) ∧ Landed (s.pc.toNat + 1) t) ∧
  (∀ (s : State) (dest op1 op2 : Role) (v : Byte) (c : Bool),
    (({ s with cf := c } : State).runEntry ⟨.add, dest, op1, op2⟩ v) =
      { s.runEntry ⟨.add, dest, op1, op2⟩ v with
        cf := (({ s with cf := c } : State).runEntry ⟨.add, dest, op1, op2⟩ v).cf }) ∧
  (∀ (s : State) (v : Byte) (d : Descriptor), decodeEntry decDefault v = some d → d.kind = .add →
    d.dest ≠ .outputPort ∧ (s.runEntry d v).outp = 0)

/-- The kinds MOV and IN for any descriptor (42_mov_in.md); the entries of the default table (D2, log 2) give the first
operand and cannot set `cf`. -/
def Obligations.MovAndInKindsForAnyDescriptor : Prop :=
  (∀ (s : State) (k : Kind) (dest op1 op2 : Role) (v : Byte), k = .mov ∨ k = .inp →
    let seen : State := { s with ir := v }
    let sum := (seen.sel op1).toNat + (seen.sel op2).toNat
    let t := s.runEntry ⟨k, dest, op1, op2⟩ v
    (dest = .registerA → t.a.toNat = sum % 16 ∧ t.b = s.b) ∧
    (dest = .registerB → t.b.toNat = sum % 16 ∧ t.a = s.a) ∧
    (t.cf = true ↔ s.cf = true ∨ sum > 15) ∧ Landed (s.pc.toNat + 1) t ∧
    s.runEntry ⟨.mov, dest, op1, op2⟩ v = s.runEntry ⟨.inp, dest, op1, op2⟩ v) ∧
  (∀ (s : State) (k : Kind) (dest op1 op2 : Role) (v : Byte) (c : Bool), k = .mov ∨ k = .inp →
    (({ s with cf := c } : State).runEntry ⟨k, dest, op1, op2⟩ v) =
      { s.runEntry ⟨k, dest, op1, op2⟩ v with cf := (({ s with cf := c } : State).runEntry ⟨k, dest, op1, op2⟩ v).cf }) ∧
  (∀ (s : State) (v : Byte) (d : Descriptor), decodeEntry decDefault v = some d → d.kind = .mov ∨ d.kind = .inp →
    d.op2 = .constantUnused ∧ s.addResult d v = ({ s with ir := v } : State).sel d.op1 ∧ (s.runEntry d v).cf = s.cf)

/-- The kind OUT for any descriptor, its destination ignored (43_out.md); the stored value stays until the next Step that is
not fatal, which overwrites it with 0 unless it is itself an output instruction (D4, log 4; the fatal Step: D7). -/
def Obligations.OutKindForAnyDescriptor : Prop :=
  (∀ (s : State) (dest op1 op2 : Role) (v : Byte),
    let seen : State := { s with ir := v }
    let sum := (seen.sel op1).toNat + (seen.sel op2).toNat
    let t := s.runEntry ⟨.out, dest, op1, op2⟩ v
    t.outp.toNat = sum % 16 ∧ (t.cf = true ↔ s.cf = true ∨ sum > 15) ∧ Landed (s.pc.toNat + 1) t ∧
    t = s.runEntry ⟨.out, .outputPort, op1, op2⟩ v) ∧
  (∀ (s : State) (dest op1 op2 : Role) (v : Byte) (c : Bool),
    (({ s with cf := c } : State).runEntry ⟨.out, dest, op1, op2⟩ v) =
      { s.runEntry ⟨.out, dest, op1, op2⟩ v with
        cf := (({ s with cf := c } : State).runEntry ⟨.out, dest, op1, op2⟩ v).cf }) ∧
  (∀ (dec : DecTable) (s t : State), stepWith dec s = .next t →
    (t.report = some .fatal → t.outp = s.outp) ∧
    (t.report ≠ some .fatal → ∃ d, decodeEntry dec t.ir = some d ∧
      ((d.kind ≠ .out ∧ ¬ (d.kind = .add ∧ d.dest = .outputPort)) → t.outp = 0) ∧
      ((d.kind = .out ∨ (d.kind = .add ∧ d.dest = .outputPort)) → t.outp = s.addResult d t.ir)))

/-- R76: the halt check, alone and in a Step: completion resets `pc` only; it is reached by incrementing from 14 or by a
taken jump with target 15 (for every well-formed table, from an executable address). -/
def Obligations.HaltCheckOnlyResetsPc : Prop :=
  (∀ (s : State) (n : Nat),
    (n ≥ 15 → s.haltCheck n = { s with pc := 0, report := some .halt }) ∧
    (n < 15 → (s.haltCheck n).pc.toNat = n ∧
      s.haltCheck n = { s with pc := (s.haltCheck n).pc, report := some .cont })) ∧
  (∀ (s : State) (d : Descriptor) (v : Byte), s.pc.toNat ≤ 14 →
    let target := nextPc d.kind (s.addResult d v) (s.afterAdd d v)
    target ≤ 15 ∧ s.runEntry d v = (s.runEntry d v).haltCheck target ∧
    ((s.runEntry d v).report = some .halt ↔ target = 15) ∧
    (target = 15 ↔
      (s.pc.toNat = 14 ∧ (d.kind ≠ .jmp ∧ (d.kind = .jnc → (s.afterAdd d v).cf = true))) ∨
      (s.addResult d v = 15 ∧ (d.kind = .jmp ∨ (d.kind = .jnc ∧ (s.afterAdd d v).cf = false)))))

/-! ### The instructions: result, frame and landing, in every state

The opcodes in these statements are the spec's default table (R52, decision D2, log 2); that an instruction other than OUT
leaves 0 at the output port is the spec's decision D4 (R75, log 4). -/

/-- `ADD A,Im`. -/
def Obligations.AddAImmediate : Prop :=
  ∀ (imm : Nibble) (s : State), decode [0b0000#4 ++ imm] = .ok (.addAIm imm, []) ∧
    ∃ t, exec (.addAIm imm) s = .next t ∧ t.a.toNat = (s.a.toNat + imm.toNat) % 16 ∧ t.b = s.b ∧ t.outp = 0 ∧
      t.cf = (s.cf || decide (s.a.toNat + imm.toNat > 15)) ∧ t.ir = 0b0000#4 ++ imm ∧
      Landed (s.pc.toNat + 1) t ∧ StepFrame s t

/-- `ADD B,Im`. -/
def Obligations.AddBImmediate : Prop :=
  ∀ (imm : Nibble) (s : State), decode [0b0101#4 ++ imm] = .ok (.addBIm imm, []) ∧
    ∃ t, exec (.addBIm imm) s = .next t ∧ t.b.toNat = (s.b.toNat + imm.toNat) % 16 ∧ t.a = s.a ∧ t.outp = 0 ∧
      t.cf = (s.cf || decide (s.b.toNat + imm.toNat > 15)) ∧ t.ir = 0b0101#4 ++ imm ∧
      Landed (s.pc.toNat + 1) t ∧ StepFrame s t

/-- `MOV A,B`. -/
def Obligations.MovAFromB : Prop :=
  ∀ (low : Nibble) (s : State), decode [0b0001#4 ++ low] = .ok (.movAB low, []) ∧
    ∃ t, exec (.movAB low) s = .next t ∧ t.a = s.b ∧ t.b = s.b ∧ t.outp = 0 ∧ t.cf = s.cf ∧
      t.ir = 0b0001#4 ++ low ∧ Landed (s.pc.toNat + 1) t ∧ StepFrame s t

/-- `MOV A,Im`. -/
def Obligations.MovAImmediate : Prop :=
  ∀ (imm : Nibble) (s : State), decode [0b0011#4 ++ imm] = .ok (.movAIm imm, []) ∧
    ∃ t, exec (.movAIm imm) s = .next t ∧ t.a = imm ∧ t.b = s.b ∧ t.outp = 0 ∧ t.cf = s.cf ∧
      t.ir = 0b0011#4 ++ imm ∧ Landed (s.pc.toNat + 1) t ∧ StepFrame s t

/-- `MOV B,A`. -/
def Obligations.MovBFromA : Prop :=
  ∀ (low : Nibble) (s : State), decode [0b0100#4 ++ low] = .ok (.movBA low, []) ∧
    ∃ t, exec (.movBA low) s = .next t ∧ t.b = s.a ∧ t.a = s.a ∧ t.outp = 0 ∧ t.cf = s.cf ∧
      t.ir = 0b0100#4 ++ low ∧ Landed (s.pc.toNat + 1) t ∧ StepFrame s t

/-- `MOV B,Im`. -/
def Obligations.MovBImmediate : Prop :=
  ∀ (imm : Nibble) (s : State), decode [0b0111#4 ++ imm] = .ok (.movBIm imm, []) ∧
    ∃ t, exec (.movBIm imm) s = .next t ∧ t.b = imm ∧ t.a = s.a ∧ t.outp = 0 ∧ t.cf = s.cf ∧
      t.ir = 0b0111#4 ++ imm ∧ Landed (s.pc.toNat + 1) t ∧ StepFrame s t

/-- `IN A`. -/
def Obligations.InToA : Prop :=
  ∀ (low : Nibble) (s : State), decode [0b0010#4 ++ low] = .ok (.inA low, []) ∧
    ∃ t, exec (.inA low) s = .next t ∧ t.a = s.inp ∧ t.b = s.b ∧ t.outp = 0 ∧ t.cf = s.cf ∧
      t.ir = 0b0010#4 ++ low ∧ Landed (s.pc.toNat + 1) t ∧ StepFrame s t

/-- `IN B`. -/
def Obligations.InToB : Prop :=
  ∀ (low : Nibble) (s : State), decode [0b0110#4 ++ low] = .ok (.inB low, []) ∧
    ∃ t, exec (.inB low) s = .next t ∧ t.b = s.inp ∧ t.a = s.a ∧ t.outp = 0 ∧ t.cf = s.cf ∧
      t.ir = 0b0110#4 ++ low ∧ Landed (s.pc.toNat + 1) t ∧ StepFrame s t

/-- `OUT B`. -/
def Obligations.OutFromB : Prop :=
  ∀ (low : Nibble) (s : State), decode [0b1001#4 ++ low] = .ok (.outB low, []) ∧
    ∃ t, exec (.outB low) s = .next t ∧ t.outp = s.b ∧ t.a = s.a ∧ t.b = s.b ∧ t.cf = s.cf ∧
      t.ir = 0b1001#4 ++ low ∧ Landed (s.pc.toNat + 1) t ∧ StepFrame s t

/-- `OUT Im`. -/
def Obligations.OutImmediate : Prop :=
  ∀ (imm : Nibble) (s : State), decode [0b1011#4 ++ imm] = .ok (.outIm imm, []) ∧
    ∃ t, exec (.outIm imm) s = .next t ∧ t.outp = imm ∧ t.a = s.a ∧ t.b = s.b ∧ t.cf = s.cf ∧
      t.ir = 0b1011#4 ++ imm ∧ Landed (s.pc.toNat + 1) t ∧ StepFrame s t

/-- `JMP Im`. -/
def Obligations.JumpImmediate : Prop :=
  ∀ (imm : Nibble) (s : State), decode [0b1111#4 ++ imm] = .ok (.jmpIm imm, []) ∧
    ∃ t, exec (.jmpIm imm) s = .next t ∧ Landed imm.toNat t ∧ t.a = s.a ∧ t.b = s.b ∧ t.outp = 0 ∧ t.cf = s.cf ∧
      t.ir = 0b1111#4 ++ imm ∧ StepFrame s t

/-- `JNC Im`. -/
def Obligations.JumpIfNotCarryImmediate : Prop :=
  ∀ (imm : Nibble) (s : State), decode [0b1110#4 ++ imm] = .ok (.jncIm imm, []) ∧
    ∃ t, exec (.jncIm imm) s = .next t ∧ (s.cf = false → Landed imm.toNat t) ∧
      (s.cf = true → Landed (s.pc.toNat + 1) t) ∧ t.cf = false ∧ t.a = s.a ∧ t.b = s.b ∧ t.outp = 0 ∧
      t.ir = 0b1110#4 ++ imm ∧ StepFrame s t

/-- The four undefined opcodes: the fatal condition is taken, only `IR`, the latch and the report change (R99; the state left
is the spec's decision D7, R101; that it is a next state is log 3). -/
def Obligations.UndefinedOpcodesRaiseFatal : Prop :=
  ∀ (low : Nibble) (s : State),
    exec (.undefined8 low) s = .next { s with ir := 0b1000#4 ++ low, flt := true, report := some .fatal } ∧
    exec (.undefinedA low) s = .next { s with ir := 0b1010#4 ++ low, flt := true, report := some .fatal } ∧
    exec (.undefinedC low) s = .next { s with ir := 0b1100#4 ++ low, flt := true, report := some .fatal } ∧
    exec (.undefinedD low) s = .next { s with ir := 0b1101#4 ++ low, flt := true, report := some .fatal } ∧
    (∀ v : Byte, v = 0b1000#4 ++ low ∨ v = 0b1010#4 ++ low ∨ v = 0b1100#4 ++ low ∨ v = 0b1101#4 ++ low →
      s.everReset = true → s.flt = false → s.rom.read s.pc.toNat = some v →
      step s = .next { s with ir := v, flt := true, report := some .fatal })

/-- `HALT` is `JMP 15` and completes from every state; `NOP` is `ADD A,0`: it puts its byte into `IR`, writes 0 to the output
port, moves `pc` on, and changes nothing else but the held report (R58, which the spec derives). Their bytes are those of the
default table (D2, PRESUMED, log 2), the 0 at the output port is D4 (log 4), the assembler lines are D9 (log 14). -/
def Obligations.PseudoInstructions : Prop :=
  AsmLine.assemble .halt = some (.jmpIm 15) ∧ encode (.jmpIm 15) = [0xFF] ∧
  AsmLine.assemble .nop = some (.addAIm 0) ∧ encode (.addAIm 0) = [0x00] ∧
  ∀ s : State,
    exec (.jmpIm 15) s = .next { s with ir := 0xFF, outp := 0, pc := 0, report := some .halt } ∧
    ∃ t, exec (.addAIm 0) s = .next t ∧ t.a = s.a ∧ t.b = s.b ∧ t.cf = s.cf ∧ t.outp = 0 ∧ t.ir = 0x00 ∧
      Landed (s.pc.toNat + 1) t ∧ StepFrame s t

/-! ### The whole machine -/

/-- The fatal latch: a Step with the latch set changes no state and reports `Fatal`; `SetInput` acts on the port alone
(R68, R102, the spec's decision D7). -/
def Obligations.LatchedMachineIsStuck : Prop :=
  ∀ s : State, s.everReset = true → s.flt = true →
    step s = .next { s with report := some .fatal } ∧
    (∀ v, v < 16 → perform (.setInput v) s = .next { s with inp := BitVec.ofNat 4 v }) ∧
    (∀ n, n ≠ 0 → runUntilEnd n s = .faulted { s with report := some .fatal })

/-- Only Reset leaves the fatal state: whatever Steps and inputs follow, everything but the input port and the held report is
as it was (R21, R102, R103, the spec's decision D7). -/
def Obligations.OnlyResetLeavesFatal : Prop :=
  ∀ (ops : List HostOp) (s t : State), s.everReset = true → s.Faulted → HostOp.reset ∉ ops → runOps ops s = .next t →
    t.Faulted ∧ t = { s with inp := t.inp, report := t.report }

/-- Every operation of the environment keeps the invariant: `pc` at most 14 (R19, derived by the spec), the latch exactly
with the report `Fatal` (R70), the machine reset, the ROM canonical. -/
def Obligations.EveryOperationKeepsInvariant : Prop :=
  (∀ s t : State, s.Inv → step s = .next t → t.Inv) ∧
  (∀ (op : HostOp) (s t : State), s.Inv → perform op s = .next t → t.Inv)

/-- `pc` stays an executable address with every well-formed decoder table, so address 15 is never fetched (R19, R43, derived
by the spec). -/
def Obligations.PcStaysBelow15ForEveryTable : Prop :=
  ∀ (dec : DecTable) (s t : State), s.pc.toNat ≤ 14 → stepWith dec s = .next t → t.pc.toNat ≤ 14

/-- The state after Reset meets the invariant. The invariant reads three values at reset that are choices: the latch clear
(the spec's decision D7, in R26), no held report (DESIGN CHOICE, log 5) and the bit `everReset` (DESIGN CHOICE, log 6). -/
def Obligations.ResetMeetsInvariant : Prop :=
  State.reset.Inv ∧ ∀ s : State, s.rom.wf = true → s.applyReset.Inv

/-- The values after Reset (R26, R113; that the latch is among them is the spec's decision D7; the held report is log 5, the
bit `everReset` log 6). -/
def Obligations.ResetValues : Prop :=
  ∀ s : State, perform .reset s = .next s.applyReset ∧
    s.applyReset.ir = 0 ∧ s.applyReset.a = 0 ∧ s.applyReset.b = 0 ∧ s.applyReset.inp = 0 ∧ s.applyReset.outp = 0 ∧
    s.applyReset.pc = 0 ∧ s.applyReset.cf = false ∧ s.applyReset.flt = false ∧ s.applyReset.rom = s.rom ∧
    s.applyReset = { State.reset with rom := s.rom }

/-- R114: any number of consecutive Resets, from any state, leaves what one leaves. -/
def Obligations.ResetIsIdempotent : Prop :=
  (∀ (n : Nat) (s : State), ∃ t, runOps (List.replicate (n + 1) .reset) s = .next t ∧
    t.pc = 0 ∧ t.ir = 0 ∧ t.a = 0 ∧ t.b = 0 ∧ t.inp = 0 ∧ t.outp = 0 ∧ t.cf = false ∧ t.rom = s.rom) ∧
  (∀ (n : Nat) (s s' : State), s.rom = s'.rom →
    runOps (List.replicate (n + 1) .reset) s = runOps (List.replicate (n + 1) .reset) s')

/-- The input port changes by `SetInput` and Reset alone, and `SetInput` changes nothing else; a value above 15 is refused
(R15, U12, the spec's decision D5). -/
def Obligations.InputPortWriters : Prop :=
  (∀ s t : State, step s = .next t → t.inp = s.inp) ∧
  (∀ (v : Nat) (s : State),
    (v < 16 → ∃ t, perform (.setInput v) s = .next t ∧ t.inp.toNat = v ∧ t = { s with inp := t.inp }) ∧
    (16 ≤ v → perform (.setInput v) s = .refused (.inputOutOfRange v)))

/-- The carry flag across one instruction: it rises by an overflowing ADD alone and falls by a JNC alone, and a JNC always
leaves it clear (R20; with the default table, log 2). -/
def Obligations.CarryWriters : Prop :=
  ∀ (i : Instr) (s t : State), exec i s = .next t →
    (s.cf = false → t.cf = true →
      (∃ imm, i = .addAIm imm ∧ s.a.toNat + imm.toNat > 15) ∨ (∃ imm, i = .addBIm imm ∧ s.b.toNat + imm.toNat > 15)) ∧
    (s.cf = true → t.cf = false → ∃ imm, i = .jncIm imm) ∧
    (∀ imm, i = .jncIm imm → t.cf = false)

/-- The carry is sticky over any number of Steps and inputs: as long as no Step runs a JNC, a set flag is set at the end
(R20, with the default table, log 2). -/
def Obligations.CarryIsStickyOverRuns : Prop :=
  ∀ (ops : List HostOp) (s t : State), s.cf = true → HostOp.reset ∉ ops → runOps ops s = .next t →
    (∀ addr v, s.rom.read addr = some v → Byte.high v ≠ 0xE) → t.cf = true

/-- The output pulse over two Steps: after a Step that is not fatal, a non-zero output means an OUT ran, and the next Step
that is not fatal leaves 0 there unless it runs an OUT (R16, R75, the spec's decision D4, log 4). -/
def Obligations.OutputPulse : Prop :=
  ∀ s t u : State, step s = .next t → t.flt = false → step t = .next u → u.flt = false →
    (t.outp ≠ 0 → Byte.high t.ir = 0x9 ∨ Byte.high t.ir = 0xB) ∧
    (Byte.high u.ir ≠ 0x9 → Byte.high u.ir ≠ 0xB → u.outp = 0)

/-- The held `IR`, `OUTP` and report feed nothing: two machines that differ in them alone have the same Step, but that a
fatal Step leaves `OUTP` as it was (R12, R16; vectors of section 2 of 95_test_vectors.md). That a Step that is not fatal never
keeps the old `OUTP` is the spec's decision D4 on C2 (DEDUCED, log 4), and what a fatal Step leaves is its decision D7. -/
def Obligations.OldIrAndOutputFeedNothing : Prop :=
  ∀ (s : State) (ir : Byte) (outp : Nibble) (r : Option StepReport),
    let s' : State := { s with ir := ir, outp := outp, report := r }
    (∀ i : Instr, i.wellFormed = true → exec i s' = exec i s) ∧
    (∀ i : Instr, i.wellFormed = false → ∃ t, exec i s = .next t ∧ exec i s' = .next { t with outp := outp })

/-- The byte at address 15 is dead: two machines alike but for it run alike under every sequence of operations from an
executable address (R43, derived by the spec). -/
def Obligations.ByteAt15IsDead : Prop :=
  ∀ (ops : List HostOp) (s t : State) (rom' : Memory), s.pc.toNat ≤ 14 → AgreeBelow15 s.rom rom' →
    runOps ops s = .next t → runOps ops (s.withRom rom') = .next (t.withRom rom')

/-- R39: no operation changes a ROM byte, so every fetch of an address returns the same byte for the life of the machine. -/
def Obligations.RomIsImmutable : Prop :=
  ∀ (ops : List HostOp) (s t : State), runOps ops s = .next t → ∀ addr, t.rom.read addr = s.rom.read addr

/-- The report of a Step: `Fatal` exactly with the latch set, and `Halt` only with `pc` 0 and the latch clear
(R70, R105, R108; the latch is the spec's decision D7). -/
def Obligations.StepReports : Prop :=
  ∀ s t : State, step s = .next t →
    (t.report = some .fatal ↔ t.flt = true) ∧ (t.report = some .halt → t.pc = 0 ∧ t.flt = false) ∧ t.report ≠ none ∧
    (t.haltSignal = true ↔ t.report = some .halt) ∧ (t.fatalSignal = t.flt)

/-- A machine that has been reset and holds a byte at `pc` always has a next state, whatever the byte and the latch. For a
defined instruction with the latch clear that is the single Step of R122; that an undefined byte answers a next state, where
R99 asks for a fault, is the model's reading (DEDUCED, log 3), and that a latched Step does is the spec's decision D7. -/
def Obligations.EveryStepCompletes : Prop :=
  ∀ s : State, s.everReset = true → (s.rom.read s.pc.toNat).isSome = true → ∃ t, step s = .next t

/-- Completion sets no latch, and the Step after it executes normally from address 0: the spec's own decision D13 and
derivation (R108, R125, N12). That this Step answers a next state when the byte at 0 is undefined is log 3 (DEDUCED). -/
def Obligations.StepAfterCompletion : Prop :=
  ∀ (s t : State) (v : Byte), step s = .next t → t.report = some .halt → s.rom.read 0 = some v →
    t.flt = false ∧ t.pc = 0 ∧ step t = exec (decodeByte v) t ∧ ∃ u, step t = .next u ∧ u.ir = v

/-- How a run of at most `n` Steps stands (R124): completed, with `pc` 0 and the latch clear; faulted, with the latch set
(D7); still running, its last Step having reported `Continue`; or stopped, exactly when it came to a Step that has no outcome
in the model (logs 1 and 6). More Steps allowed do not change a run that has completed or faulted. -/
def Obligations.RunEnds : Prop :=
  ∀ (n : Nat) (s : State),
    (∀ t, runUntilEnd n s = .completed t → t.pc = 0 ∧ t.flt = false ∧ t.rom = s.rom) ∧
    (∀ t, runUntilEnd n s = .faulted t → t.flt = true ∧ t.rom = s.rom) ∧
    (∀ t, runUntilEnd n s = .running t → t.rom = s.rom ∧
      (n = 0 → t = s) ∧ (n ≠ 0 → t.report = some .cont ∧ t.flt = false)) ∧
    (runUntilEnd n s = .stopped ↔ ∃ m t, m < n ∧ runUntilEnd m s = .running t ∧ ∀ u, step t ≠ .next u) ∧
    (∀ t m, runUntilEnd n s = .completed t → n ≤ m → runUntilEnd m s = .completed t) ∧
    (∀ t m, runUntilEnd n s = .faulted t → n ≤ m → runUntilEnd m s = .faulted t)

/-- A jump to its own address never ends (44_jump.md, corner case of `JMP Im`; default table, log 2): every Step reports
`Continue` and stays there. -/
def Obligations.SelfJumpNeverEnds : Prop :=
  ∀ (s : State) (n : Nat), s.everReset = true → s.flt = false → s.pc.toNat ≤ 14 →
    s.rom.read s.pc.toNat = some (0xF#4 ++ s.pc) →
    ∃ t, runUntilEnd n s = .running t ∧ t.pc = s.pc ∧ (n ≠ 0 → t.report = some .cont)

/-- A Step before the first Reset is refused, whatever the machine holds (R116, the spec's decision D8; log 6). -/
def Obligations.NeverResetIsRefused : Prop :=
  (∀ s : State, s.everReset = false → step s = .refused .neverReset) ∧
  (∀ rom : Memory, step (State.powerOn rom) = .refused .neverReset ∧
    (State.powerOn rom).applyReset = { State.reset with rom := rom })

/-- A ROM byte that was not supplied stops the fetch: the model's own convention for the OPEN image (D3; log 1). -/
def Obligations.OpenRomByteStops : Prop :=
  ∀ s : State, s.everReset = true → s.flt = false → s.rom.read s.pc.toNat = none →
    step s = .fault (.romByteOpen s.pc.toNat)

/-- An access outside a Storage breaks its range and an access inside never does (R60, R100). That no state's fetch does is an
inference the spec marks as derived (R34), and holds in every state because the model's `pc` has 4 bits (DEDUCED, log 13). -/
def Obligations.StorageRangeExactlyOutside : Prop :=
  (∀ (s : State) (st : Storage) (addr : Nat) (v : Byte),
    (s.storageRead st addr = .outOfRange ↔ st.size ≤ addr) ∧ (s.storageWrite st addr v = none ↔ st.size ≤ addr)) ∧
  Storage.size .rom = 16 ∧ Storage.size .registerFile = 5 ∧ Storage.size .status = 1 ∧
  (∀ s : State, s.storageRead .rom s.romAddress ≠ .outOfRange)

/-- Storage read after write (R60): in range, the slot written reads the value narrowed to its width (R11: `IR` and the ROM 8
bits, slots 1 to 4 four bits; R20: the status store one), and every other slot of every Storage reads as before. -/
def Obligations.StorageReadAfterWrite : Prop :=
  ∀ (s t : State) (st : Storage) (addr : Nat) (v : Byte), s.storageWrite st addr v = some t →
    (st = .rom ∨ (st = .registerFile ∧ addr = 0) → t.storageRead st addr = .byte v) ∧
    (st = .registerFile → addr ≠ 0 → t.storageRead st addr = .byte (BitVec.ofNat 8 (v.toNat % 16))) ∧
    (st = .status → t.storageRead st addr = .byte (BitVec.ofNat 8 (v.toNat % 2))) ∧
    (∀ st' addr', (st' ≠ st ∨ addr' ≠ addr) → t.storageRead st' addr' = s.storageRead st' addr')

/-- The host's placing of an instruction: the next Step runs exactly it, and the other ROM bytes are as before (log 1). -/
def Obligations.PlacedWordRunsNext : Prop :=
  ∀ (s : State) (w : Nat), ∃ t, s.withFetchWord 8 w = t ∧
    step t = exec (decodeByte (BitVec.ofNat 8 w)) t ∧
    (∀ addr, addr ≠ s.pc.toNat → t.rom.read addr = s.rom.read addr) ∧
    t = { s with rom := t.rom, everReset := true, flt := false }

/-- One clock cycle (the spec's decision D1): `rst` has priority, without `rst` and `step_en` all state holds. -/
def Obligations.ClockedCycle : Prop :=
  ∀ (s : State) (stepEn : Bool), clockCycle true stepEn s = .next s.applyReset ∧ clockCycle false true s = step s ∧
    clockCycle false false s = .next s
end

