-- ==== Sys2Proof/Laws/Memory.lean ====
section
/-! SUPPORT. Every operation on the ROM keeps its canonical form. -/

namespace Sys2Proof.Machine

theorem Memory.wfFrom_mono {lo lo' : Nat} (h : lo' ≤ lo) {m : Memory} (hm : Memory.wfFrom lo m = true) :
    Memory.wfFrom lo' m = true := by
  cases m with
  | nil => rfl
  | cons p rest =>
    obtain ⟨x, v⟩ := p
    simp only [Memory.wfFrom, Bool.and_eq_true, decide_eq_true_eq] at hm ⊢
    exact ⟨⟨by omega, hm.1.2⟩, hm.2⟩

theorem Memory.write_wfFrom {m : Memory} {lo addr : Nat} (v : Byte) (hm : Memory.wfFrom lo m = true)
    (hlo : lo ≤ addr) (ha : addr < Config.romSize) : Memory.wfFrom lo (m.write addr v) = true := by
  induction m generalizing lo with
  | nil => simp [Memory.write, Memory.wfFrom, hlo, ha]
  | cons p rest ih =>
    obtain ⟨x, w⟩ := p
    simp only [Memory.wfFrom, Bool.and_eq_true, decide_eq_true_eq] at hm
    unfold Memory.write
    split
    · simp only [Memory.wfFrom, Bool.and_eq_true, decide_eq_true_eq]
      exact ⟨⟨hlo, ha⟩, ⟨by omega, hm.1.2⟩, hm.2⟩
    · split
      · subst addr
        simp only [Memory.wfFrom, Bool.and_eq_true, decide_eq_true_eq]
        exact ⟨⟨hlo, ha⟩, hm.2⟩
      · simp only [Memory.wfFrom, Bool.and_eq_true, decide_eq_true_eq]
        exact ⟨hm.1, ih hm.2 (by omega)⟩

/-- Supplying a byte at an address of the ROM keeps the canonical form. -/
theorem Memory.write_wf {m : Memory} {addr : Nat} (v : Byte) (hm : m.wf = true) (ha : addr < Config.romSize) :
    (m.write addr v).wf = true :=
  Memory.write_wfFrom v hm (Nat.zero_le _) ha

theorem Memory.zipIdx_wfFrom (bytes : List Byte) (k : Nat) (h : k + bytes.length ≤ Config.romSize) :
    Memory.wfFrom k ((bytes.zipIdx k).map fun p => (p.2, p.1)) = true := by
  induction bytes generalizing k with
  | nil => rfl
  | cons v rest ih =>
    simp only [List.length_cons] at h
    simp only [List.zipIdx_cons, List.map_cons, Memory.wfFrom, Bool.and_eq_true, decide_eq_true_eq]
    exact ⟨⟨Nat.le_refl k, by omega⟩, ih (k + 1) (by omega)⟩

/-- An image of at most sixteen bytes is in canonical form. -/
theorem Memory.ofBytes_wf (bytes : List Byte) (h : bytes.length ≤ Config.romSize) : (Memory.ofBytes bytes).wf = true :=
  Memory.zipIdx_wfFrom bytes 0 (by omega)

theorem State.reset_rom_wf : State.reset.rom.wf = true := rfl

/-- Placing an instruction at `pc` keeps the canonical form. -/
theorem State.withFetchWord_rom_wf {s : State} (h : s.rom.wf = true) (nbits w : Nat) :
    (s.withFetchWord nbits w).rom.wf = true :=
  Memory.write_wf _ h s.pc.isLt

end Sys2Proof.Machine
end

