-- ==== Sys2Proof/Laws/State.lean ====
section
/-! SUPPORT. One lemma per field per update of State, so that no later proof unfolds a record update. -/

namespace Sys2Proof.Machine

@[simp] theorem State.latch_ir (s : State) (v : Byte) : (s.latch v).ir = v := rfl
@[simp] theorem State.latch_a (s : State) (v : Byte) : (s.latch v).a = s.a := rfl
@[simp] theorem State.latch_b (s : State) (v : Byte) : (s.latch v).b = s.b := rfl
@[simp] theorem State.latch_inp (s : State) (v : Byte) : (s.latch v).inp = s.inp := rfl
@[simp] theorem State.latch_outp (s : State) (v : Byte) : (s.latch v).outp = s.outp := rfl
@[simp] theorem State.latch_pc (s : State) (v : Byte) : (s.latch v).pc = s.pc := rfl
@[simp] theorem State.latch_cf (s : State) (v : Byte) : (s.latch v).cf = s.cf := rfl
@[simp] theorem State.latch_flt (s : State) (v : Byte) : (s.latch v).flt = s.flt := rfl
@[simp] theorem State.latch_report (s : State) (v : Byte) : (s.latch v).report = s.report := rfl
@[simp] theorem State.latch_everReset (s : State) (v : Byte) : (s.latch v).everReset = s.everReset := rfl
@[simp] theorem State.latch_rom (s : State) (v : Byte) : (s.latch v).rom = s.rom := rfl

@[simp] theorem State.storeOutput_ir (s : State) (v : Nibble) : (s.storeOutput v).ir = s.ir := rfl
@[simp] theorem State.storeOutput_a (s : State) (v : Nibble) : (s.storeOutput v).a = s.a := rfl
@[simp] theorem State.storeOutput_b (s : State) (v : Nibble) : (s.storeOutput v).b = s.b := rfl
@[simp] theorem State.storeOutput_inp (s : State) (v : Nibble) : (s.storeOutput v).inp = s.inp := rfl
@[simp] theorem State.storeOutput_outp (s : State) (v : Nibble) : (s.storeOutput v).outp = v := rfl
@[simp] theorem State.storeOutput_pc (s : State) (v : Nibble) : (s.storeOutput v).pc = s.pc := rfl
@[simp] theorem State.storeOutput_cf (s : State) (v : Nibble) : (s.storeOutput v).cf = s.cf := rfl
@[simp] theorem State.storeOutput_flt (s : State) (v : Nibble) : (s.storeOutput v).flt = s.flt := rfl
@[simp] theorem State.storeOutput_report (s : State) (v : Nibble) : (s.storeOutput v).report = s.report := rfl
@[simp] theorem State.storeOutput_everReset (s : State) (v : Nibble) : (s.storeOutput v).everReset = s.everReset := rfl
@[simp] theorem State.storeOutput_rom (s : State) (v : Nibble) : (s.storeOutput v).rom = s.rom := rfl

@[simp] theorem State.raiseCarry_ir (s : State) (sum : Nat) : (s.raiseCarry sum).ir = s.ir := rfl
@[simp] theorem State.raiseCarry_a (s : State) (sum : Nat) : (s.raiseCarry sum).a = s.a := rfl
@[simp] theorem State.raiseCarry_b (s : State) (sum : Nat) : (s.raiseCarry sum).b = s.b := rfl
@[simp] theorem State.raiseCarry_inp (s : State) (sum : Nat) : (s.raiseCarry sum).inp = s.inp := rfl
@[simp] theorem State.raiseCarry_outp (s : State) (sum : Nat) : (s.raiseCarry sum).outp = s.outp := rfl
@[simp] theorem State.raiseCarry_pc (s : State) (sum : Nat) : (s.raiseCarry sum).pc = s.pc := rfl
@[simp] theorem State.raiseCarry_cf (s : State) (sum : Nat) : (s.raiseCarry sum).cf = (s.cf || carryOut sum) := rfl
@[simp] theorem State.raiseCarry_flt (s : State) (sum : Nat) : (s.raiseCarry sum).flt = s.flt := rfl
@[simp] theorem State.raiseCarry_report (s : State) (sum : Nat) : (s.raiseCarry sum).report = s.report := rfl
@[simp] theorem State.raiseCarry_everReset (s : State) (sum : Nat) : (s.raiseCarry sum).everReset = s.everReset := rfl
@[simp] theorem State.raiseCarry_rom (s : State) (sum : Nat) : (s.raiseCarry sum).rom = s.rom := rfl

@[simp] theorem State.clearCarry_ir (s : State) : (s.clearCarry).ir = s.ir := rfl
@[simp] theorem State.clearCarry_a (s : State) : (s.clearCarry).a = s.a := rfl
@[simp] theorem State.clearCarry_b (s : State) : (s.clearCarry).b = s.b := rfl
@[simp] theorem State.clearCarry_inp (s : State) : (s.clearCarry).inp = s.inp := rfl
@[simp] theorem State.clearCarry_outp (s : State) : (s.clearCarry).outp = s.outp := rfl
@[simp] theorem State.clearCarry_pc (s : State) : (s.clearCarry).pc = s.pc := rfl
@[simp] theorem State.clearCarry_cf (s : State) : (s.clearCarry).cf = false := rfl
@[simp] theorem State.clearCarry_flt (s : State) : (s.clearCarry).flt = s.flt := rfl
@[simp] theorem State.clearCarry_report (s : State) : (s.clearCarry).report = s.report := rfl
@[simp] theorem State.clearCarry_everReset (s : State) : (s.clearCarry).everReset = s.everReset := rfl
@[simp] theorem State.clearCarry_rom (s : State) : (s.clearCarry).rom = s.rom := rfl

@[simp] theorem State.reportFatal_ir (s : State) : (s.reportFatal).ir = s.ir := rfl
@[simp] theorem State.reportFatal_a (s : State) : (s.reportFatal).a = s.a := rfl
@[simp] theorem State.reportFatal_b (s : State) : (s.reportFatal).b = s.b := rfl
@[simp] theorem State.reportFatal_inp (s : State) : (s.reportFatal).inp = s.inp := rfl
@[simp] theorem State.reportFatal_outp (s : State) : (s.reportFatal).outp = s.outp := rfl
@[simp] theorem State.reportFatal_pc (s : State) : (s.reportFatal).pc = s.pc := rfl
@[simp] theorem State.reportFatal_cf (s : State) : (s.reportFatal).cf = s.cf := rfl
@[simp] theorem State.reportFatal_flt (s : State) : (s.reportFatal).flt = s.flt := rfl
@[simp] theorem State.reportFatal_report (s : State) : (s.reportFatal).report = some .fatal := rfl
@[simp] theorem State.reportFatal_everReset (s : State) : (s.reportFatal).everReset = s.everReset := rfl
@[simp] theorem State.reportFatal_rom (s : State) : (s.reportFatal).rom = s.rom := rfl

@[simp] theorem State.raiseFatal_ir (s : State) (c : FatalCause) : (s.raiseFatal c).ir = s.ir := rfl
@[simp] theorem State.raiseFatal_a (s : State) (c : FatalCause) : (s.raiseFatal c).a = s.a := rfl
@[simp] theorem State.raiseFatal_b (s : State) (c : FatalCause) : (s.raiseFatal c).b = s.b := rfl
@[simp] theorem State.raiseFatal_inp (s : State) (c : FatalCause) : (s.raiseFatal c).inp = s.inp := rfl
@[simp] theorem State.raiseFatal_outp (s : State) (c : FatalCause) : (s.raiseFatal c).outp = s.outp := rfl
@[simp] theorem State.raiseFatal_pc (s : State) (c : FatalCause) : (s.raiseFatal c).pc = s.pc := rfl
@[simp] theorem State.raiseFatal_cf (s : State) (c : FatalCause) : (s.raiseFatal c).cf = s.cf := rfl
@[simp] theorem State.raiseFatal_flt (s : State) (c : FatalCause) : (s.raiseFatal c).flt = true := rfl
@[simp] theorem State.raiseFatal_report (s : State) (c : FatalCause) : (s.raiseFatal c).report = some .fatal := rfl
@[simp] theorem State.raiseFatal_everReset (s : State) (c : FatalCause) : (s.raiseFatal c).everReset = s.everReset := rfl
@[simp] theorem State.raiseFatal_rom (s : State) (c : FatalCause) : (s.raiseFatal c).rom = s.rom := rfl

@[simp] theorem State.applyReset_ir (s : State) : (s.applyReset).ir = 0 := rfl
@[simp] theorem State.applyReset_a (s : State) : (s.applyReset).a = 0 := rfl
@[simp] theorem State.applyReset_b (s : State) : (s.applyReset).b = 0 := rfl
@[simp] theorem State.applyReset_inp (s : State) : (s.applyReset).inp = 0 := rfl
@[simp] theorem State.applyReset_outp (s : State) : (s.applyReset).outp = 0 := rfl
@[simp] theorem State.applyReset_pc (s : State) : (s.applyReset).pc = 0 := rfl
@[simp] theorem State.applyReset_cf (s : State) : (s.applyReset).cf = false := rfl
@[simp] theorem State.applyReset_flt (s : State) : (s.applyReset).flt = false := rfl
@[simp] theorem State.applyReset_report (s : State) : (s.applyReset).report = none := rfl
@[simp] theorem State.applyReset_everReset (s : State) : (s.applyReset).everReset = true := rfl
@[simp] theorem State.applyReset_rom (s : State) : (s.applyReset).rom = s.rom := rfl

@[simp] theorem State.setInput_ir (s : State) (v : Nibble) : (s.setInput v).ir = s.ir := rfl
@[simp] theorem State.setInput_a (s : State) (v : Nibble) : (s.setInput v).a = s.a := rfl
@[simp] theorem State.setInput_b (s : State) (v : Nibble) : (s.setInput v).b = s.b := rfl
@[simp] theorem State.setInput_inp (s : State) (v : Nibble) : (s.setInput v).inp = v := rfl
@[simp] theorem State.setInput_outp (s : State) (v : Nibble) : (s.setInput v).outp = s.outp := rfl
@[simp] theorem State.setInput_pc (s : State) (v : Nibble) : (s.setInput v).pc = s.pc := rfl
@[simp] theorem State.setInput_cf (s : State) (v : Nibble) : (s.setInput v).cf = s.cf := rfl
@[simp] theorem State.setInput_flt (s : State) (v : Nibble) : (s.setInput v).flt = s.flt := rfl
@[simp] theorem State.setInput_report (s : State) (v : Nibble) : (s.setInput v).report = s.report := rfl
@[simp] theorem State.setInput_everReset (s : State) (v : Nibble) : (s.setInput v).everReset = s.everReset := rfl
@[simp] theorem State.setInput_rom (s : State) (v : Nibble) : (s.setInput v).rom = s.rom := rfl

@[simp] theorem State.withRom_ir (s : State) (r : Memory) : (s.withRom r).ir = s.ir := rfl
@[simp] theorem State.withRom_a (s : State) (r : Memory) : (s.withRom r).a = s.a := rfl
@[simp] theorem State.withRom_b (s : State) (r : Memory) : (s.withRom r).b = s.b := rfl
@[simp] theorem State.withRom_inp (s : State) (r : Memory) : (s.withRom r).inp = s.inp := rfl
@[simp] theorem State.withRom_outp (s : State) (r : Memory) : (s.withRom r).outp = s.outp := rfl
@[simp] theorem State.withRom_pc (s : State) (r : Memory) : (s.withRom r).pc = s.pc := rfl
@[simp] theorem State.withRom_cf (s : State) (r : Memory) : (s.withRom r).cf = s.cf := rfl
@[simp] theorem State.withRom_flt (s : State) (r : Memory) : (s.withRom r).flt = s.flt := rfl
@[simp] theorem State.withRom_report (s : State) (r : Memory) : (s.withRom r).report = s.report := rfl
@[simp] theorem State.withRom_everReset (s : State) (r : Memory) : (s.withRom r).everReset = s.everReset := rfl
@[simp] theorem State.withRom_rom (s : State) (r : Memory) : (s.withRom r).rom = r := rfl

@[simp] theorem State.clearRegisterFile_ir (s : State) : (s.clearRegisterFile).ir = 0 := rfl
@[simp] theorem State.clearRegisterFile_a (s : State) : (s.clearRegisterFile).a = 0 := rfl
@[simp] theorem State.clearRegisterFile_b (s : State) : (s.clearRegisterFile).b = 0 := rfl
@[simp] theorem State.clearRegisterFile_inp (s : State) : (s.clearRegisterFile).inp = 0 := rfl
@[simp] theorem State.clearRegisterFile_outp (s : State) : (s.clearRegisterFile).outp = 0 := rfl
@[simp] theorem State.clearRegisterFile_pc (s : State) : (s.clearRegisterFile).pc = s.pc := rfl
@[simp] theorem State.clearRegisterFile_cf (s : State) : (s.clearRegisterFile).cf = s.cf := rfl
@[simp] theorem State.clearRegisterFile_flt (s : State) : (s.clearRegisterFile).flt = s.flt := rfl
@[simp] theorem State.clearRegisterFile_report (s : State) : (s.clearRegisterFile).report = s.report := rfl
@[simp] theorem State.clearRegisterFile_everReset (s : State) : (s.clearRegisterFile).everReset = s.everReset := rfl
@[simp] theorem State.clearRegisterFile_rom (s : State) : (s.clearRegisterFile).rom = s.rom := rfl

@[simp] theorem State.clearStatus_ir (s : State) : (s.clearStatus).ir = s.ir := rfl
@[simp] theorem State.clearStatus_a (s : State) : (s.clearStatus).a = s.a := rfl
@[simp] theorem State.clearStatus_b (s : State) : (s.clearStatus).b = s.b := rfl
@[simp] theorem State.clearStatus_inp (s : State) : (s.clearStatus).inp = s.inp := rfl
@[simp] theorem State.clearStatus_outp (s : State) : (s.clearStatus).outp = s.outp := rfl
@[simp] theorem State.clearStatus_pc (s : State) : (s.clearStatus).pc = s.pc := rfl
@[simp] theorem State.clearStatus_cf (s : State) : (s.clearStatus).cf = false := rfl
@[simp] theorem State.clearStatus_flt (s : State) : (s.clearStatus).flt = s.flt := rfl
@[simp] theorem State.clearStatus_report (s : State) : (s.clearStatus).report = s.report := rfl
@[simp] theorem State.clearStatus_everReset (s : State) : (s.clearStatus).everReset = s.everReset := rfl
@[simp] theorem State.clearStatus_rom (s : State) : (s.clearStatus).rom = s.rom := rfl

@[simp] theorem State.storeRegister_ir (s : State) (dest : Role) (v : Nibble) : (s.storeRegister dest v).ir = s.ir := by
  cases dest <;> rfl
@[simp] theorem State.storeRegister_a (s : State) (dest : Role) (v : Nibble) : (s.storeRegister dest v).a = if dest = .registerA then v else s.a := by
  cases dest <;> rfl
@[simp] theorem State.storeRegister_b (s : State) (dest : Role) (v : Nibble) : (s.storeRegister dest v).b = if dest = .registerB then v else s.b := by
  cases dest <;> rfl
@[simp] theorem State.storeRegister_inp (s : State) (dest : Role) (v : Nibble) : (s.storeRegister dest v).inp = s.inp := by
  cases dest <;> rfl
@[simp] theorem State.storeRegister_outp (s : State) (dest : Role) (v : Nibble) : (s.storeRegister dest v).outp = s.outp := by
  cases dest <;> rfl
@[simp] theorem State.storeRegister_pc (s : State) (dest : Role) (v : Nibble) : (s.storeRegister dest v).pc = s.pc := by
  cases dest <;> rfl
@[simp] theorem State.storeRegister_cf (s : State) (dest : Role) (v : Nibble) : (s.storeRegister dest v).cf = s.cf := by
  cases dest <;> rfl
@[simp] theorem State.storeRegister_flt (s : State) (dest : Role) (v : Nibble) : (s.storeRegister dest v).flt = s.flt := by
  cases dest <;> rfl
@[simp] theorem State.storeRegister_report (s : State) (dest : Role) (v : Nibble) : (s.storeRegister dest v).report = s.report := by
  cases dest <;> rfl
@[simp] theorem State.storeRegister_everReset (s : State) (dest : Role) (v : Nibble) : (s.storeRegister dest v).everReset = s.everReset := by
  cases dest <;> rfl
@[simp] theorem State.storeRegister_rom (s : State) (dest : Role) (v : Nibble) : (s.storeRegister dest v).rom = s.rom := by
  cases dest <;> rfl

@[simp] theorem State.consumeCarry_ir (s : State) (k : Kind) : (s.consumeCarry k).ir = s.ir := by
  cases k <;> simp [State.consumeCarry]
@[simp] theorem State.consumeCarry_a (s : State) (k : Kind) : (s.consumeCarry k).a = s.a := by
  cases k <;> simp [State.consumeCarry]
@[simp] theorem State.consumeCarry_b (s : State) (k : Kind) : (s.consumeCarry k).b = s.b := by
  cases k <;> simp [State.consumeCarry]
@[simp] theorem State.consumeCarry_inp (s : State) (k : Kind) : (s.consumeCarry k).inp = s.inp := by
  cases k <;> simp [State.consumeCarry]
@[simp] theorem State.consumeCarry_outp (s : State) (k : Kind) : (s.consumeCarry k).outp = s.outp := by
  cases k <;> simp [State.consumeCarry]
@[simp] theorem State.consumeCarry_pc (s : State) (k : Kind) : (s.consumeCarry k).pc = s.pc := by
  cases k <;> simp [State.consumeCarry]
@[simp] theorem State.consumeCarry_cf (s : State) (k : Kind) : (s.consumeCarry k).cf = (s.cf && decide (k ≠ .jnc)) := by
  cases k <;> simp [State.consumeCarry]
@[simp] theorem State.consumeCarry_flt (s : State) (k : Kind) : (s.consumeCarry k).flt = s.flt := by
  cases k <;> simp [State.consumeCarry]
@[simp] theorem State.consumeCarry_report (s : State) (k : Kind) : (s.consumeCarry k).report = s.report := by
  cases k <;> simp [State.consumeCarry]
@[simp] theorem State.consumeCarry_everReset (s : State) (k : Kind) : (s.consumeCarry k).everReset = s.everReset := by
  cases k <;> simp [State.consumeCarry]
@[simp] theorem State.consumeCarry_rom (s : State) (k : Kind) : (s.consumeCarry k).rom = s.rom := by
  cases k <;> simp [State.consumeCarry]

@[simp] theorem State.pulseOutput_ir (s : State) (d : Descriptor) : (s.pulseOutput d).ir = s.ir := by
  unfold State.pulseOutput; split <;> rfl
@[simp] theorem State.pulseOutput_a (s : State) (d : Descriptor) : (s.pulseOutput d).a = s.a := by
  unfold State.pulseOutput; split <;> rfl
@[simp] theorem State.pulseOutput_b (s : State) (d : Descriptor) : (s.pulseOutput d).b = s.b := by
  unfold State.pulseOutput; split <;> rfl
@[simp] theorem State.pulseOutput_inp (s : State) (d : Descriptor) : (s.pulseOutput d).inp = s.inp := by
  unfold State.pulseOutput; split <;> rfl
@[simp] theorem State.pulseOutput_outp (s : State) (d : Descriptor) : (s.pulseOutput d).outp = if writesOutput d then s.outp else 0 := by
  unfold State.pulseOutput; split <;> rfl
@[simp] theorem State.pulseOutput_pc (s : State) (d : Descriptor) : (s.pulseOutput d).pc = s.pc := by
  unfold State.pulseOutput; split <;> rfl
@[simp] theorem State.pulseOutput_cf (s : State) (d : Descriptor) : (s.pulseOutput d).cf = s.cf := by
  unfold State.pulseOutput; split <;> rfl
@[simp] theorem State.pulseOutput_flt (s : State) (d : Descriptor) : (s.pulseOutput d).flt = s.flt := by
  unfold State.pulseOutput; split <;> rfl
@[simp] theorem State.pulseOutput_report (s : State) (d : Descriptor) : (s.pulseOutput d).report = s.report := by
  unfold State.pulseOutput; split <;> rfl
@[simp] theorem State.pulseOutput_everReset (s : State) (d : Descriptor) : (s.pulseOutput d).everReset = s.everReset := by
  unfold State.pulseOutput; split <;> rfl
@[simp] theorem State.pulseOutput_rom (s : State) (d : Descriptor) : (s.pulseOutput d).rom = s.rom := by
  unfold State.pulseOutput; split <;> rfl

@[simp] theorem State.haltCheck_ir (s : State) (n : Nat) : (s.haltCheck n).ir = s.ir := by
  unfold State.haltCheck Config.haltAddr; split <;> rfl
@[simp] theorem State.haltCheck_a (s : State) (n : Nat) : (s.haltCheck n).a = s.a := by
  unfold State.haltCheck Config.haltAddr; split <;> rfl
@[simp] theorem State.haltCheck_b (s : State) (n : Nat) : (s.haltCheck n).b = s.b := by
  unfold State.haltCheck Config.haltAddr; split <;> rfl
@[simp] theorem State.haltCheck_inp (s : State) (n : Nat) : (s.haltCheck n).inp = s.inp := by
  unfold State.haltCheck Config.haltAddr; split <;> rfl
@[simp] theorem State.haltCheck_outp (s : State) (n : Nat) : (s.haltCheck n).outp = s.outp := by
  unfold State.haltCheck Config.haltAddr; split <;> rfl
@[simp] theorem State.haltCheck_pc (s : State) (n : Nat) : (s.haltCheck n).pc = if 15 ≤ n then 0 else BitVec.ofNat 4 n := by
  unfold State.haltCheck Config.haltAddr; split <;> rfl
@[simp] theorem State.haltCheck_cf (s : State) (n : Nat) : (s.haltCheck n).cf = s.cf := by
  unfold State.haltCheck Config.haltAddr; split <;> rfl
@[simp] theorem State.haltCheck_flt (s : State) (n : Nat) : (s.haltCheck n).flt = s.flt := by
  unfold State.haltCheck Config.haltAddr; split <;> rfl
@[simp] theorem State.haltCheck_report (s : State) (n : Nat) : (s.haltCheck n).report = if 15 ≤ n then some .halt else some .cont := by
  unfold State.haltCheck Config.haltAddr; split <;> rfl
@[simp] theorem State.haltCheck_everReset (s : State) (n : Nat) : (s.haltCheck n).everReset = s.everReset := by
  unfold State.haltCheck Config.haltAddr; split <;> rfl
@[simp] theorem State.haltCheck_rom (s : State) (n : Nat) : (s.haltCheck n).rom = s.rom := by
  unfold State.haltCheck Config.haltAddr; split <;> rfl

end Sys2Proof.Machine
end

