-- ==== Sys2Proof/Laws/Ops.lean ====
section
/-! SUPPORT. For each shared operation, once, everything it does. -/

namespace Sys2Proof.Machine

@[simp] theorem aluResult_toNat (sum : Nat) : (aluResult sum).toNat = sum % 16 := by
  simp [aluResult]

/-- Phase 5's store, field by field (R74). -/
theorem storeResult_cases (s : State) (d : Descriptor) (res : Nibble) :
    s.storeResult d res =
      { s with
        a := if (d.kind = .add ∨ d.kind = .mov ∨ d.kind = .inp) ∧ d.dest = .registerA then res else s.a
        b := if (d.kind = .add ∨ d.kind = .mov ∨ d.kind = .inp) ∧ d.dest = .registerB then res else s.b
        outp := if writesOutput d then res else s.outp } := by
  obtain ⟨k, dest, op1, op2⟩ := d
  cases k <;> cases dest <;> rfl

/-- The uniform path of an instruction, field by field (R78). -/
theorem runEntry_fields (s : State) (d : Descriptor) (byte : Byte) :
    s.runEntry d byte =
      { ir := byte
        a := if (d.kind = .add ∨ d.kind = .mov ∨ d.kind = .inp) ∧ d.dest = .registerA
          then s.addResult d byte else s.a
        b := if (d.kind = .add ∨ d.kind = .mov ∨ d.kind = .inp) ∧ d.dest = .registerB
          then s.addResult d byte else s.b
        inp := s.inp
        outp := if writesOutput d then s.addResult d byte else 0
        pc := if 15 ≤ nextPc d.kind (s.addResult d byte) (s.afterAdd d byte) then 0
          else BitVec.ofNat 4 (nextPc d.kind (s.addResult d byte) (s.afterAdd d byte))
        cf := (s.afterAdd d byte).cf && decide (d.kind ≠ .jnc)
        flt := s.flt
        report := if 15 ≤ nextPc d.kind (s.addResult d byte) (s.afterAdd d byte)
          then some .halt else some .cont
        everReset := s.everReset
        rom := s.rom } := by
  unfold State.runEntry
  rw [State.mk.injEq]
  simp only [State.haltCheck_ir, State.haltCheck_a, State.haltCheck_b, State.haltCheck_inp, State.haltCheck_outp,
    State.haltCheck_pc, State.haltCheck_cf, State.haltCheck_flt, State.haltCheck_report, State.haltCheck_everReset,
    State.haltCheck_rom]
  refine ⟨?_, ?_, ?_, ?_, ?_, ?_, ?_, ?_, ?_, ?_, ?_⟩ <;>
    simp +contextual [storeResult_cases, State.afterAdd]

/-- How the front of a Step can end (R105): one of these five. -/
theorem front_cases (s : State) :
    (s.everReset = false ∧ s.front = .done (.refused .neverReset)) ∨
    (s.everReset = true ∧ s.flt = true ∧ s.front = .done (.next s.reportFatal)) ∨
    (s.everReset = true ∧ s.flt = false ∧ ∃ v, s.rom.read s.pc.toNat = some v ∧ s.front = .fetched v) ∨
    (s.everReset = true ∧ s.flt = false ∧ s.rom.read s.pc.toNat = none ∧
      s.front = .done (.fault (.romByteOpen s.pc.toNat))) := by
  have hpc : ¬ Config.romSize ≤ s.pc.toNat := by
    have := s.pc.isLt
    simp only [Config.romSize]; omega
  cases he : s.everReset
  · simp [State.front, he]
  · cases hf : s.flt
    · cases hr : s.rom.read s.pc.toNat with
      | none => simp [State.front, he, hf, State.storageRead, State.romAddress, Storage.size, hpc, hr]
      | some v => simp [State.front, he, hf, State.storageRead, State.romAddress, Storage.size, hpc, hr]
    · simp [State.front, he, hf]

/-- What a Step that answers a next state can have done. -/
theorem step_next_cases {s t : State} (h : step s = .next t) :
    s.everReset = true ∧
    ((s.flt = true ∧ t = s.reportFatal) ∨
      (s.flt = false ∧ ∃ v, s.rom.read s.pc.toNat = some v ∧ exec (decodeByte v) s = .next t)) := by
  unfold step at h
  rcases front_cases s with ⟨_, hf⟩ | ⟨he, hl, hf⟩ | ⟨he, hl, v, hv, hf⟩ | ⟨_, _, _, hf⟩ <;> rw [hf] at h
  · cases h
  · cases h; exact ⟨he, .inl ⟨hl, rfl⟩⟩
  · exact ⟨he, .inr ⟨hl, v, hv, h⟩⟩
  · cases h

/-- Every instruction answers a next state: a run of the uniform path, or the fatal condition of an opcode without entry. -/
theorem exec_next (i : Instr) (s : State) :
    (i.wellFormed = true ∧ ∃ d : Descriptor, d.wellFormed = true ∧ exec i s = .next (s.runEntry d (encodeByte i))) ∨
    (i.wellFormed = false ∧ exec i s = .next (s.runUndefined (encodeByte i))) := by
  cases i
  case undefined8 | undefinedA | undefinedC | undefinedD => exact .inr ⟨rfl, rfl⟩
  all_goals exact .inl ⟨rfl, _, rfl, rfl⟩

/-- What one operation of the environment that answers a next state can have done. -/
theorem perform_next_cases {op : HostOp} {s t : State} (h : perform op s = .next t) :
    (op = .reset ∧ t = s.applyReset) ∨ (op = .step ∧ step s = .next t) ∨
    (∃ v, op = .setInput v ∧ v < 16 ∧ t = s.setInput (BitVec.ofNat 4 v)) := by
  cases op with
  | reset => cases h; exact .inl ⟨rfl, rfl⟩
  | step => exact .inr (.inl ⟨rfl, h⟩)
  | setInput v =>
    simp only [perform] at h
    split at h
    · cases h; exact .inr (.inr ⟨v, rfl, ‹_›, rfl⟩)
    · cases h

end Sys2Proof.Machine
end

