-- ==== Sys2Proof/Laws/PerInstr.lean ====
section
/-! SUPPORT. Facts about every instruction as a written term, one lemma per constructor. -/

namespace Sys2Proof

theorem high_append (o l : Nibble) : Byte.high (o ++ l) = o := by
  revert o l; decide

theorem low_append (o l : Nibble) : Byte.low (o ++ l) = l := by
  revert o l; decide

theorem eq_high_append_low (b : Byte) : b = Byte.high b ++ Byte.low b := by
  revert b; decide

end Sys2Proof

namespace Sys2Proof.Laws.EncodeFields

/-- The byte of an instruction has a table entry exactly when the instruction is well-formed, and its low nibble alone tells
it from the other bytes of its row (R45, R54, R59). -/
def Statement (i : Instr) : Prop :=
  (decodeEntry decDefault (encodeByte i)).isSome = i.wellFormed ∧
  ∀ j : Instr, Byte.high (encodeByte j) = Byte.high (encodeByte i) →
    Byte.low (encodeByte j) = Byte.low (encodeByte i) → encodeByte j = encodeByte i

theorem byte_of_nibbles : ∀ b c : Byte, Byte.high b = Byte.high c → Byte.low b = Byte.low c → b = c := by
  intro b c h l
  rw [eq_high_append_low b, eq_high_append_low c, h, l]

theorem addAIm (imm : Nibble) : Statement (.addAIm imm) :=
  ⟨by simp only [decodeEntry, encodeByte, high_append]; rfl, fun _ h l => byte_of_nibbles _ _ h l⟩
theorem movAB (low : Nibble) : Statement (.movAB low) :=
  ⟨by simp only [decodeEntry, encodeByte, high_append]; rfl, fun _ h l => byte_of_nibbles _ _ h l⟩
theorem inA (low : Nibble) : Statement (.inA low) :=
  ⟨by simp only [decodeEntry, encodeByte, high_append]; rfl, fun _ h l => byte_of_nibbles _ _ h l⟩
theorem movAIm (imm : Nibble) : Statement (.movAIm imm) :=
  ⟨by simp only [decodeEntry, encodeByte, high_append]; rfl, fun _ h l => byte_of_nibbles _ _ h l⟩
theorem movBA (low : Nibble) : Statement (.movBA low) :=
  ⟨by simp only [decodeEntry, encodeByte, high_append]; rfl, fun _ h l => byte_of_nibbles _ _ h l⟩
theorem addBIm (imm : Nibble) : Statement (.addBIm imm) :=
  ⟨by simp only [decodeEntry, encodeByte, high_append]; rfl, fun _ h l => byte_of_nibbles _ _ h l⟩
theorem inB (low : Nibble) : Statement (.inB low) :=
  ⟨by simp only [decodeEntry, encodeByte, high_append]; rfl, fun _ h l => byte_of_nibbles _ _ h l⟩
theorem movBIm (imm : Nibble) : Statement (.movBIm imm) :=
  ⟨by simp only [decodeEntry, encodeByte, high_append]; rfl, fun _ h l => byte_of_nibbles _ _ h l⟩
theorem undefined8 (low : Nibble) : Statement (.undefined8 low) :=
  ⟨by simp only [decodeEntry, encodeByte, high_append]; rfl, fun _ h l => byte_of_nibbles _ _ h l⟩
theorem outB (low : Nibble) : Statement (.outB low) :=
  ⟨by simp only [decodeEntry, encodeByte, high_append]; rfl, fun _ h l => byte_of_nibbles _ _ h l⟩
theorem undefinedA (low : Nibble) : Statement (.undefinedA low) :=
  ⟨by simp only [decodeEntry, encodeByte, high_append]; rfl, fun _ h l => byte_of_nibbles _ _ h l⟩
theorem outIm (imm : Nibble) : Statement (.outIm imm) :=
  ⟨by simp only [decodeEntry, encodeByte, high_append]; rfl, fun _ h l => byte_of_nibbles _ _ h l⟩
theorem undefinedC (low : Nibble) : Statement (.undefinedC low) :=
  ⟨by simp only [decodeEntry, encodeByte, high_append]; rfl, fun _ h l => byte_of_nibbles _ _ h l⟩
theorem undefinedD (low : Nibble) : Statement (.undefinedD low) :=
  ⟨by simp only [decodeEntry, encodeByte, high_append]; rfl, fun _ h l => byte_of_nibbles _ _ h l⟩
theorem jncIm (imm : Nibble) : Statement (.jncIm imm) :=
  ⟨by simp only [decodeEntry, encodeByte, high_append]; rfl, fun _ h l => byte_of_nibbles _ _ h l⟩
theorem jmpIm (imm : Nibble) : Statement (.jmpIm imm) :=
  ⟨by simp only [decodeEntry, encodeByte, high_append]; rfl, fun _ h l => byte_of_nibbles _ _ h l⟩

end Sys2Proof.Laws.EncodeFields
end

