-- ==== Sys2Proof/Tests/Slice0.lean ====
section
/-! SUPPORT. Tests whose expected results come from spec/95_test_vectors.md and the encodings of spec/30_encoding.md, the
well-formedness smoke tests, and a witness for the hypotheses of every statement that has some. -/

namespace Sys2Proof.Tests

open Sys2Proof.Machine

/-- A machine about to run `byte`, as the left half of a vector row gives it. -/
def before (byte : Byte) (pc a b inp outp : Nibble) (cf : Bool) : State :=
  { State.reset with pc := pc, a := a, b := b, inp := inp, outp := outp, cf := cf, rom := [(pc.toNat, byte)] }

/-- The right half of a vector row. -/
structure Row where
  ir : Byte
  a : Nibble
  b : Nibble
  inp : Nibble
  outp : Nibble
  cf : Bool
  pc : Nibble
  flt : Bool
  report : Option StepReport
  deriving DecidableEq, Repr

/-- What a Step leaves, as a vector row shows it. -/
def seen : Host.Outcome State Fault Refusal → Option Row
  | .next t => some ⟨t.ir, t.a, t.b, t.inp, t.outp, t.cf, t.pc, t.flt, t.report⟩
  | .fault _ => none
  | .refused _ => none

/-! ### Well-formedness: each check refuses a term -/

theorem test_wf_accepts_default : decDefault.wellFormed = true := by decide

/-- Section 4: `(MOV, OutputPort, RegisterA, ConstantUnused)` is refused, the ADD entry beside it accepted. -/
theorem test_wf_refuses_mov_to_output :
    Descriptor.wellFormed ⟨.mov, .outputPort, .registerA, .constantUnused⟩ = false ∧
    Descriptor.wellFormed ⟨.add, .outputPort, .registerA, .constantUnused⟩ = true := by decide

theorem test_wf_refuses_add_to_input : Descriptor.wellFormed ⟨.add, .inputPort, .registerA, .registerB⟩ = false := by decide

theorem test_wf_refuses_in_to_pc :
    Descriptor.wellFormed ⟨.inp, .programCounterTarget, .inputPort, .constantUnused⟩ = false := by decide

/-- The default table with opcode `o` given the entry `d`. -/
def tableWith (o : Nibble) (d : Option Descriptor) : DecTable := fun x => if x = o then d else decDefault x

/-- R50 item 1. -/
theorem test_wf_refuses_entry_at_8 :
    (tableWith 0x8 (some ⟨.mov, .registerA, .registerB, .constantUnused⟩)).lacksUndefined = false := by decide

/-- R50 item 2: no JMP. -/
theorem test_wf_refuses_missing_kind : (tableWith 0xF none).coversKinds = false := by decide

/-- R50 item 3: no OUT of an immediate. -/
theorem test_wf_refuses_missing_out_im : (tableWith 0xB none).hasOutImmediate = false := by decide

/-- R50 item 4. -/
theorem test_wf_refuses_ill_formed_entry :
    (tableWith 0x1 (some ⟨.mov, .outputPort, .registerA, .constantUnused⟩)).entriesWellFormed = false ∧
    (tableWith 0x1 (some ⟨.mov, .outputPort, .registerA, .constantUnused⟩)).wellFormed = false := by decide

theorem test_wf_refuses_undefined_opcodes :
    Instr.wellFormed (.undefined8 0) = false ∧ Instr.wellFormed (.undefinedA 5) = false ∧
    Instr.wellFormed (.undefinedC 0) = false ∧ Instr.wellFormed (.undefinedD 15) = false := by decide

theorem test_assembled_refuses_used_low_nibble : Instr.assembled (.movAB 15) = false := by decide

/-! ### Decoding: one byte per row, its bits written from R52 -/

theorem test_decode_no_byte : decode [] = .error .noByte := rfl
theorem test_decode_addAIm : decodeTableWord 8 0b00000011 = some (.addAIm 3) ∧ encode (.addAIm 3) = [0b00000011] := by decide
theorem test_decode_movAB : decodeTableWord 8 0b00010000 = some (.movAB 0) ∧ encode (.movAB 0) = [0b00010000] := by decide
theorem test_decode_inA : decodeTableWord 8 0b00101100 = some (.inA 12) ∧ encode (.inA 12) = [0b00101100] := by decide
theorem test_decode_movAIm : decodeTableWord 8 0b00111101 = some (.movAIm 13) ∧ encode (.movAIm 13) = [0b00111101] := by decide
theorem test_decode_movBA : decodeTableWord 8 0b01001010 = some (.movBA 10) ∧ encode (.movBA 10) = [0b01001010] := by decide
theorem test_decode_addBIm : decodeTableWord 8 0b01011000 = some (.addBIm 8) ∧ encode (.addBIm 8) = [0b01011000] := by decide
theorem test_decode_inB : decodeTableWord 8 0b01100000 = some (.inB 0) ∧ encode (.inB 0) = [0b01100000] := by decide
theorem test_decode_movBIm : decodeTableWord 8 0b01111111 = some (.movBIm 15) ∧ encode (.movBIm 15) = [0b01111111] := by decide
theorem test_decode_undefined8 : decodeTableWord 8 0b10000000 = some (.undefined8 0) ∧ encode (.undefined8 0) = [0b10000000] := by decide
theorem test_decode_outB : decodeTableWord 8 0b10010111 = some (.outB 7) ∧ encode (.outB 7) = [0b10010111] := by decide
theorem test_decode_undefinedA : decodeTableWord 8 0b10100101 = some (.undefinedA 5) ∧ encode (.undefinedA 5) = [0b10100101] := by decide
theorem test_decode_outIm : decodeTableWord 8 0b10110111 = some (.outIm 7) ∧ encode (.outIm 7) = [0b10110111] := by decide
theorem test_decode_undefinedC : decodeTableWord 8 0b11000000 = some (.undefinedC 0) ∧ encode (.undefinedC 0) = [0b11000000] := by decide
theorem test_decode_undefinedD : decodeTableWord 8 0b11011111 = some (.undefinedD 15) ∧ encode (.undefinedD 15) = [0b11011111] := by decide
theorem test_decode_jncIm : decodeTableWord 8 0b11100001 = some (.jncIm 1) ∧ encode (.jncIm 1) = [0b11100001] := by decide
theorem test_decode_jmpIm : decodeTableWord 8 0b11110010 = some (.jmpIm 2) ∧ encode (.jmpIm 2) = [0b11110010] := by decide

/-! ### One Step: rows of spec/95_test_vectors.md, sections 2.1 to 2.5 -/

theorem test_add_a_wraps_and_carries :
    seen (step (before 0x03 1 14 0 0 0 false)) =
      some ⟨0x03, 1, 0, 0, 0, true, 2, false, some .cont⟩ := by decide
theorem test_add_a_at_14_halts :
    seen (step (before 0x05 14 9 0 0 7 false)) =
      some ⟨0x05, 14, 0, 0, 0, false, 0, false, some .halt⟩ := by decide
theorem test_add_b_overflow_leaves_a :
    seen (step (before 0x5F 0 3 15 0 0 false)) =
      some ⟨0x5F, 3, 14, 0, 0, true, 1, false, some .cont⟩ := by decide
theorem test_add_b_no_overflow_keeps_carry :
    seen (step (before 0x50 0 0 6 0 0 true)) =
      some ⟨0x50, 0, 6, 0, 0, true, 1, false, some .cont⟩ := by decide
theorem test_mov_a_b :
    seen (step (before 0x10 3 2 9 0 0 false)) =
      some ⟨0x10, 9, 9, 0, 0, false, 4, false, some .cont⟩ := by decide
theorem test_mov_a_b_ignores_low_nibble :
    seen (step (before 0x1F 3 2 9 0 0 false)) =
      some ⟨0x1F, 9, 9, 0, 0, false, 4, false, some .cont⟩ := by decide
theorem test_mov_a_im_keeps_carry :
    seen (step (before 0x30 0 7 0 0 0 true)) =
      some ⟨0x30, 0, 0, 0, 0, true, 1, false, some .cont⟩ := by decide
theorem test_mov_a_im :
    seen (step (before 0x3D 0 7 0 0 0 false)) =
      some ⟨0x3D, 13, 0, 0, 0, false, 1, false, some .cont⟩ := by decide
theorem test_mov_b_a :
    seen (step (before 0x40 2 8 0 0 0 false)) =
      some ⟨0x40, 8, 8, 0, 0, false, 3, false, some .cont⟩ := by decide
theorem test_mov_b_a_ignores_low_nibble :
    seen (step (before 0x4A 2 15 1 0 0 false)) =
      some ⟨0x4A, 15, 15, 0, 0, false, 3, false, some .cont⟩ := by decide
theorem test_mov_b_im :
    seen (step (before 0x7F 5 0 1 0 0 false)) =
      some ⟨0x7F, 0, 15, 0, 0, false, 6, false, some .cont⟩ := by decide
theorem test_in_a_keeps_carry :
    seen (step (before 0x20 2 0 0 9 0 true)) =
      some ⟨0x20, 9, 0, 9, 0, true, 3, false, some .cont⟩ := by decide
theorem test_in_a_ignores_low_nibble :
    seen (step (before 0x2C 0 1 0 15 0 false)) =
      some ⟨0x2C, 15, 0, 15, 0, false, 1, false, some .cont⟩ := by decide
theorem test_in_b_clears_output :
    seen (step (before 0x60 13 0 5 6 3 false)) =
      some ⟨0x60, 0, 6, 6, 0, false, 14, false, some .cont⟩ := by decide
theorem test_out_b_ignores_low_nibble :
    seen (step (before 0x97 3 0 8 0 0 false)) =
      some ⟨0x97, 0, 8, 0, 8, false, 4, false, some .cont⟩ := by decide
theorem test_out_b_at_14_halts_and_keeps_output :
    seen (step (before 0x9F 14 0 15 0 0 true)) =
      some ⟨0x9F, 0, 15, 0, 15, true, 0, false, some .halt⟩ := by decide
theorem test_out_im_after_out :
    seen (step (before 0xB3 1 0 0 0 9 false)) =
      some ⟨0xB3, 0, 0, 0, 3, false, 2, false, some .cont⟩ := by decide
theorem test_out_im_source_trace :
    seen (step (before 0xB7 0 0 0 0 0 false)) =
      some ⟨0xB7, 0, 0, 0, 7, false, 1, false, some .cont⟩ := by decide
theorem test_jmp_15_halts :
    seen (step (before 0xFF 3 0 0 0 0 false)) =
      some ⟨0xFF, 0, 0, 0, 0, false, 0, false, some .halt⟩ := by decide
theorem test_jmp_0_at_14_goes_on :
    seen (step (before 0xF0 14 0 0 0 5 true)) =
      some ⟨0xF0, 0, 0, 0, 0, true, 0, false, some .cont⟩ := by decide
theorem test_jnc_not_taken :
    seen (step (before 0xEF 5 0 0 0 0 true)) =
      some ⟨0xEF, 0, 0, 0, 0, false, 6, false, some .cont⟩ := by decide
theorem test_jnc_taken_at_14 :
    seen (step (before 0xE3 14 0 0 0 0 false)) =
      some ⟨0xE3, 0, 0, 0, 0, false, 3, false, some .cont⟩ := by decide
theorem test_undefined_8_keeps_output :
    seen (step (before 0x80 1 7 0 0 4 false)) =
      some ⟨0x80, 7, 0, 0, 4, false, 1, true, some .fatal⟩ := by decide
theorem test_undefined_a :
    seen (step (before 0xA5 6 0 0 0 0 true)) =
      some ⟨0xA5, 0, 0, 0, 0, true, 6, true, some .fatal⟩ := by decide
theorem test_undefined_c :
    seen (step (before 0xC0 0 0 0 0 0 false)) =
      some ⟨0xC0, 0, 0, 0, 0, false, 0, true, some .fatal⟩ := by decide
theorem test_undefined_d :
    seen (step (before 0xDF 14 0 2 0 0 false)) =
      some ⟨0xDF, 0, 2, 0, 0, false, 14, true, some .fatal⟩ := by decide

/-- Section 2.5: a further Step changes nothing and reports `Fatal`. -/
theorem test_latched_step :
    seen (step { before 0x31 1 7 0 0 4 false with flt := true, ir := 0x80 }) =
      some ⟨0x80, 7, 0, 0, 4, false, 1, true, some .fatal⟩ := by decide

/-- Section 2.6, row 2 and row 5. -/
theorem test_reset_and_set_input :
    seen (perform .reset { before 0x80 1 7 0 0 4 false with flt := true, ir := 0x80 }) =
      some ⟨0x00, 0, 0, 0, 0, false, 0, false, none⟩ ∧
    seen (perform (.setInput 0) { before 0x20 3 9 0 9 0 true with ir := 0x20 }) =
      some ⟨0x20, 9, 0, 0, 0, true, 3, false, none⟩ := by decide

/-- Section 4: `SetInput(16)` is refused. -/
theorem test_set_input_16_refused : perform (.setInput 16) State.reset = .refused (.inputOutOfRange 16) := rfl

/-- Section 4: a Step before any Reset is refused. -/
theorem test_never_reset_refused : step { State.reset with everReset := false } = .refused .neverReset := rfl

/-- S9: the Selector with `rf = [0xB7, 4, 9, 6, 2]`. -/
theorem test_selector_map :
    [Role.registerA, .registerB, .memoryImmediate, .inputPort, .outputPort, .programCounterTarget, .constantUnused].map
      ({ State.reset with ir := 0xB7, a := 4, b := 9, inp := 6, outp := 2 } : State).sel = [4, 9, 7, 6, 0, 0, 0] := by
  decide

/-- The image of program P1 as its listing assembles. -/
theorem test_assemble_p1 :
    assembleImage [.movAIm 3, .addAIm 5, .movBA, .outB, .halt] =
      some [(0, 0x33), (1, 0x05), (2, 0x40), (3, 0x90), (4, 0xFF)] := by decide

theorem test_assemble_refuses_16 : AsmLine.assemble (.jmpIm 16) = none := by decide

/-- The host's placing runs as the first instruction after Reset. -/
theorem test_placed_word_runs : seen (step (State.reset.withFetchWord 8 0xB7)) =
    some ⟨0xB7, 0, 0, 0, 7, false, 1, false, some .cont⟩ := by decide

/-! ### Witnesses: states that meet the hypotheses of the statements -/

/-- A machine at address 3 about to run `MOV B,A`. -/
def wMov : State := before 0x40 3 2 9 0 0 false
/-- A machine at address 14 about to run `ADD A,15` with A = 1: it overflows and halts. -/
def wAdd : State := before 0x0F 14 1 0 0 0 false
/-- A machine about to run `OUT 7` and then `MOV A,1`. -/
def wOut : State := { before 0xB7 0 0 0 0 0 true with rom := [(0, 0xB7), (1, 0x31)] }
/-- A latched machine. -/
def wFatal : State := { before 0x80 1 7 0 0 4 false with flt := true, ir := 0x80, report := some .fatal }
/-- A machine at address 9 that jumps to itself. -/
def wLoop : State := before 0xF9 9 0 0 0 0 false

theorem witness_StepRunsDecodedInstruction : wMov.everReset = true ∧ wMov.flt = false ∧
    wMov.rom.read wMov.pc.toNat = some 0x40 ∧ decode [0x40] = .ok (.movBA 0, []) := ⟨rfl, rfl, rfl, rfl⟩

theorem witness_TableStepIsClosedForm : decDefault.wellFormed = true ∧ wAdd.everReset = true ∧ wAdd.flt = false ∧
    wAdd.rom.read wAdd.pc.toNat = some 0x0F := by decide

/-- One table for each ground of refusal; the default table meets none. -/
theorem witness_IllFormedTableIsRefused :
    (∃ o ∈ [0x8#4, 0xA#4, 0xC#4, 0xD#4], tableWith 0xD (some ⟨.jmp, .registerA, .registerA, .registerA⟩) o ≠ none) ∧
    (∀ o, (tableWith 0xF none o).all (fun d => d.kind ≠ .jmp) = true) ∧
    (∀ o, (tableWith 0xB (some ⟨.out, .outputPort, .memoryImmediate, .registerA⟩) o).all (fun d =>
      d.kind ≠ .out || d.op1 ≠ .memoryImmediate || d.op2 = .registerA) = true) ∧
    (∃ o d, tableWith 0x0 (some ⟨.add, .inputPort, .registerA, .registerB⟩) o = some d ∧ d.kind = .add ∧
      d.dest ≠ .outputPort ∧ d.dest ≠ .registerA ∧ d.dest ≠ .registerB) ∧
    (∃ o d, tableWith 0x1 (some ⟨.mov, .outputPort, .registerA, .constantUnused⟩) o = some d ∧
      (d.kind = .mov ∨ d.kind = .inp) ∧ d.dest ≠ .registerA ∧ d.dest ≠ .registerB) :=
  ⟨⟨0xD, by decide, by decide⟩, by decide, by decide, ⟨0x0, _, rfl, by decide⟩, ⟨0x1, _, rfl, by decide⟩⟩

/-- Sums 16 and 15, where the two clauses meet, each with a kind that is JNC and one that is not. -/
theorem witness_ExecutePhaseAddsAndRaisesCarry :
    ((({ wAdd with ir := 0x0F } : State).sel .registerA).toNat + (({ wAdd with ir := 0x0F } : State).sel .memoryImmediate).toNat = 16) ∧
    ((({ wAdd with ir := 0x0E } : State).sel .registerA).toNat + (({ wAdd with ir := 0x0E } : State).sel .memoryImmediate).toNat = 15) ∧
    (⟨.jnc, .registerA, .registerA, .memoryImmediate⟩ : Descriptor).kind = .jnc ∧
    (⟨.add, .registerA, .registerA, .memoryImmediate⟩ : Descriptor).kind ≠ .jnc := by decide

/-- Entries of the default table of each kind, with a landing at both sides of the halt check. -/
theorem witness_WritebackByKind :
    decDefault 0x5 = some ⟨.add, .registerB, .registerB, .memoryImmediate⟩ ∧
    decDefault 0x6 = some ⟨.inp, .registerB, .inputPort, .constantUnused⟩ ∧
    decDefault 0xB = some ⟨.out, .outputPort, .memoryImmediate, .constantUnused⟩ ∧
    decDefault 0xE = some ⟨.jnc, .programCounterTarget, .memoryImmediate, .constantUnused⟩ ∧
    decDefault 0xF = some ⟨.jmp, .programCounterTarget, .memoryImmediate, .constantUnused⟩ ∧
    (wAdd.afterAdd ⟨.jnc, .programCounterTarget, .registerA, .memoryImmediate⟩ 0xEF).cf = true ∧
    (wAdd.afterAdd ⟨.jnc, .programCounterTarget, .memoryImmediate, .constantUnused⟩ 0xEF).cf = false := by decide

theorem witness_AddKindForAnyDescriptor :
    decodeEntry decDefault 0x0F = some ⟨.add, .registerA, .registerA, .memoryImmediate⟩ := by decide

theorem witness_MovAndInKindsForAnyDescriptor :
    decodeEntry decDefault 0x10 = some ⟨.mov, .registerA, .registerB, .constantUnused⟩ ∧
    decodeEntry decDefault 0x60 = some ⟨.inp, .registerB, .inputPort, .constantUnused⟩ := by decide

theorem witness_OutKindForAnyDescriptor :
    (∃ t, stepWith decDefault wOut = .next t ∧ t.report ≠ some .fatal ∧
      decodeEntry decDefault t.ir = some ⟨.out, .outputPort, .memoryImmediate, .constantUnused⟩) ∧
    (∃ t, stepWith decDefault wMov = .next t ∧ t.report ≠ some .fatal ∧
      decodeEntry decDefault t.ir = some ⟨.mov, .registerB, .registerA, .constantUnused⟩) ∧
    (∃ t, stepWith decDefault wFatal = .next t ∧ t.report = some .fatal) :=
  ⟨⟨_, rfl, by decide, by decide⟩, ⟨_, rfl, by decide, by decide⟩, ⟨_, rfl, by decide⟩⟩

/-- Addresses 14 and below, with the counter after writeback at 15 by increment and by a taken jump. -/
theorem witness_HaltCheckOnlyResetsPc : wAdd.pc.toNat = 14 ∧ wMov.pc.toNat ≤ 14 ∧
    nextPc .add (wAdd.addResult ⟨.add, .registerA, .registerA, .memoryImmediate⟩ 0x0F)
      (wAdd.afterAdd ⟨.add, .registerA, .registerA, .memoryImmediate⟩ 0x0F) = 15 ∧
    nextPc .jmp (wMov.addResult ⟨.jmp, .programCounterTarget, .memoryImmediate, .constantUnused⟩ 0xFF)
      (wMov.afterAdd ⟨.jmp, .programCounterTarget, .memoryImmediate, .constantUnused⟩ 0xFF) = 15 := by decide

theorem witness_UndefinedOpcodesRaiseFatal : (0x85 : Byte) = 0b1000#4 ++ (5 : Nibble) ∧
    (before 0x85 0 0 0 0 0 false).everReset = true ∧ (before 0x85 0 0 0 0 0 false).flt = false ∧
    (before 0x85 0 0 0 0 0 false).rom.read 0 = some 0x85 := by decide

theorem witness_LatchedMachineIsStuck : wFatal.everReset = true ∧ wFatal.flt = true := by decide

theorem witness_OnlyResetLeavesFatal : wFatal.everReset = true ∧ wFatal.Faulted ∧ HostOp.reset ∉ [HostOp.step, .setInput 9] ∧
    ∃ t, runOps [.step, .setInput 9] wFatal = .next t := ⟨rfl, rfl, by decide, _, rfl⟩

theorem witness_EveryOperationKeepsInvariant :
    (wAdd.Inv ∧ ∃ t, step wAdd = .next t) ∧ (wFatal.Inv ∧ ∃ t, perform (.setInput 15) wFatal = .next t) := by
  refine ⟨⟨?_, _, rfl⟩, ⟨?_, _, rfl⟩⟩ <;> unfold State.Inv <;> decide

theorem witness_PcStaysBelow15ForEveryTable : wAdd.pc.toNat ≤ 14 ∧ ∃ t, stepWith decDefault wAdd = .next t :=
  ⟨by decide, _, rfl⟩

theorem witness_ResetMeetsInvariant : wOut.rom.wf = true := by decide

theorem witness_ResetIsIdempotent : wOut.rom = { wFatal with rom := wOut.rom }.rom := rfl

/-- Values 15 and 16, where the two clauses meet. -/
theorem witness_InputPortWriters : (∃ t, step wMov = .next t) ∧ 15 < 16 ∧ 16 ≤ 16 := ⟨⟨_, rfl⟩, by decide, by decide⟩

theorem witness_CarryWriters :
    (∃ t, exec (.addAIm 15) wAdd = .next t ∧ wAdd.cf = false ∧ t.cf = true) ∧
    (∃ t, exec (.jncIm 15) wOut = .next t ∧ wOut.cf = true ∧ t.cf = false) :=
  ⟨⟨_, rfl, by decide, by decide⟩, ⟨_, rfl, by decide, by decide⟩⟩

theorem witness_CarryIsStickyOverRuns : wOut.cf = true ∧ HostOp.reset ∉ [HostOp.step, .step] ∧
    (∃ t, runOps [.step, .step] wOut = .next t) ∧ ∀ addr v, wOut.rom.read addr = some v → Byte.high v ≠ 0xE := by
  refine ⟨rfl, by decide, ⟨_, rfl⟩, fun addr v h => ?_⟩
  simp only [wOut, Memory.read] at h
  split at h
  · cases h; decide
  · split at h
    · cases h; decide
    · cases h

theorem witness_OutputPulse : ∃ t u, step wOut = .next t ∧ t.flt = false ∧ step t = .next u ∧ u.flt = false ∧
    t.outp ≠ 0 ∧ Byte.high u.ir ≠ 0x9 ∧ Byte.high u.ir ≠ 0xB :=
  ⟨_, _, rfl, by decide, rfl, by decide, by decide, by decide, by decide⟩

theorem witness_OldIrAndOutputFeedNothing : Instr.wellFormed (.outB 3) = true ∧ Instr.wellFormed (.undefinedC 3) = false := by
  decide

theorem witness_ByteAt15IsDead : wOut.pc.toNat ≤ 14 ∧
    AgreeBelow15 wOut.rom [(0, 0xB7), (1, 0x31), (15, 0xF0)] ∧ ∃ t, runOps [.step, .step] wOut = .next t := by
  refine ⟨by decide, fun addr h => ?_, _, rfl⟩
  have h15 : ¬ 15 = addr := by omega
  simp only [wOut, Memory.read, h15, if_false]

theorem witness_RomIsImmutable : ∃ t, runOps [.step, .reset, .step, .setInput 3] wOut = .next t := ⟨_, rfl⟩

theorem witness_StepReports : (∃ t, step wAdd = .next t ∧ t.report = some .halt) ∧
    (∃ t, step wFatal = .next t ∧ t.report = some .fatal) ∧ ∃ t, step wMov = .next t ∧ t.report = some .cont :=
  ⟨⟨_, rfl, by decide⟩, ⟨_, rfl, by decide⟩, ⟨_, rfl, by decide⟩⟩

theorem witness_EveryStepCompletes : wMov.everReset = true ∧ (wMov.rom.read wMov.pc.toNat).isSome = true := by decide

theorem witness_StepAfterCompletion :
    ∃ t, step { wAdd with rom := [(0, 0x33), (14, 0x0F)] } = .next t ∧ t.report = some .halt ∧
      ({ wAdd with rom := [(0, 0x33), (14, 0x0F)] } : State).rom.read 0 = some 0x33 := ⟨_, rfl, by decide, by decide⟩

/-- Each of the four ends; `wMov` holds one byte, so its second Step has no outcome. -/
theorem witness_RunEnds : (∃ t, runUntilEnd 1 wAdd = .completed t) ∧ (∃ t, runUntilEnd 1 wFatal = .faulted t) ∧
    (∃ t, runUntilEnd 0 wMov = .running t) ∧ (∃ t, runUntilEnd 1 wMov = .running t) ∧ runUntilEnd 2 wMov = .stopped :=
  ⟨⟨_, rfl⟩, ⟨_, rfl⟩, ⟨_, rfl⟩, ⟨_, rfl⟩, rfl⟩

theorem witness_SelfJumpNeverEnds : wLoop.everReset = true ∧ wLoop.flt = false ∧ wLoop.pc.toNat ≤ 14 ∧
    wLoop.rom.read wLoop.pc.toNat = some (0xF#4 ++ wLoop.pc) := by decide

theorem witness_NeverResetIsRefused : ({ wMov with everReset := false } : State).everReset = false := rfl

theorem witness_OpenRomByteStops : State.reset.everReset = true ∧ State.reset.flt = false ∧
    State.reset.rom.read State.reset.pc.toNat = none := by decide

/-- The last slot of each Storage is in range and the one after it is not. -/
theorem witness_StorageRangeExactlyOutside :
    wOut.storageRead .registerFile 4 ≠ .outOfRange ∧ wOut.storageRead .registerFile 5 = .outOfRange ∧
    wOut.storageRead .rom 15 = .romOpen 15 ∧ wOut.storageRead .rom 16 = .outOfRange ∧
    wOut.storageRead .status 0 = .byte 1 ∧ wOut.storageRead .status 1 = .outOfRange := by decide

theorem witness_StorageReadAfterWrite : (∃ t, wOut.storageWrite .registerFile 0 0xFF = some t) ∧
    (∃ t, wOut.storageWrite .registerFile 4 0xFF = some t) ∧ (∃ t, wOut.storageWrite .rom 15 0xFF = some t) ∧
    (∃ t, wOut.storageWrite .status 0 0xFF = some t) := ⟨⟨_, rfl⟩, ⟨_, rfl⟩, ⟨_, rfl⟩, ⟨_, rfl⟩⟩

end Sys2Proof.Tests
end

/-! The ROM along a run of operations (spec/20_memory.md R39): it is written by no instruction, hence by no Step, hence by
no operation of the environment, hence by no sequence of them. -/

namespace Sys2Proof.Machine

/-! ### Sequences of operations -/

/-- A sequence that answers a next state passed through the next state of its first operation. -/
theorem runOps_cons_eq_next {op : HostOp} {ops : List HostOp} {s t : State} :
    runOps (op :: ops) s = .next t ↔ ∃ u, perform op s = .next u ∧ runOps ops u = .next t := by
  cases h : perform op s <;> simp [runOps, h]

/-- The induction over a sequence of operations, once for all: what each operation of the sequence keeps holds at its end. -/
theorem runOps_preserves {P : State → Prop} {ops : List HostOp}
    (keeps : ∀ op ∈ ops, ∀ u v, P u → perform op u = .next v → P v) {s t : State} (hs : P s)
    (h : runOps ops s = .next t) : P t := by
  induction ops generalizing s with
  | nil => cases h; exact hs
  | cons op ops ih =>
    obtain ⟨u, hop, hrest⟩ := runOps_cons_eq_next.mp h
    have hu : P u := keeps op List.mem_cons_self s u hs hop
    exact ih (fun o ho => keeps o (List.mem_cons_of_mem _ ho)) hu hrest

/-! ### No operation writes the ROM -/

@[simp] theorem State.runEntry_rom (s : State) (d : Descriptor) (byte : Byte) : (s.runEntry d byte).rom = s.rom := by
  rw [runEntry_fields]

@[simp] theorem State.runUndefined_rom (s : State) (byte : Byte) : (s.runUndefined byte).rom = s.rom := by
  simp [State.runUndefined]

theorem exec_rom {i : Instr} {s t : State} (h : exec i s = .next t) : t.rom = s.rom := by
  rcases exec_next i s with ⟨_, d, _, hrun⟩ | ⟨_, hfatal⟩
  · cases hrun.symm.trans h; exact s.runEntry_rom d _
  · cases hfatal.symm.trans h; exact s.runUndefined_rom _

theorem step_rom {s t : State} (h : step s = .next t) : t.rom = s.rom := by
  obtain ⟨_, ⟨_, rfl⟩ | ⟨_, v, _, hexec⟩⟩ := step_next_cases h
  · exact s.reportFatal_rom
  · exact exec_rom hexec

theorem perform_rom {op : HostOp} {s t : State} (h : perform op s = .next t) : t.rom = s.rom := by
  obtain ⟨_, rfl⟩ | ⟨_, hstep⟩ | ⟨v, _, _, rfl⟩ := perform_next_cases h
  · exact s.applyReset_rom
  · exact step_rom hstep
  · exact s.setInput_rom _

theorem runOps_rom {ops : List HostOp} {s t : State} (h : runOps ops s = .next t) : t.rom = s.rom :=
  runOps_preserves (P := fun u => u.rom = s.rom) (fun _ _ _ _ hu hop => (perform_rom hop).trans hu) rfl h

/-- Settles O44: the whole ROM is kept, by induction on the operations, so every address reads as before. -/
theorem romIsImmutable : Obligations.RomIsImmutable := by
  intro ops s t h addr
  rw [runOps_rom h]

end Sys2Proof.Machine

/-! The datapath for any decoder entry (spec/40_datapath.md R64 to R77): what the Selector, the ALU phase, the writeback and
the halt check each do, and then what the uniform path of an instruction leaves in each register and where it lands. -/

namespace Sys2Proof

/-! ### The entries of a well-formed table (R50, R51) -/

theorem mem_opcodes : ∀ o : Nibble, o ∈ opcodes := by decide

/-- R50 item 4, for one entry. -/
theorem DecTable.entry_wellFormed {dec : DecTable} {o : Nibble} {d : Descriptor} (hdec : dec.wellFormed = true)
    (hd : dec o = some d) : d.wellFormed = true := by
  have hentries : dec.entriesWellFormed = true := by
    simp only [DecTable.wellFormed, Bool.and_eq_true] at hdec
    exact hdec.2
  have hentry := List.all_eq_true.mp hentries o (mem_opcodes o)
  rwa [hd, Option.all_some] at hentry

theorem Descriptor.dest_of_wellFormed_add {d : Descriptor} (hd : d.wellFormed = true) (hk : d.kind = .add) :
    d.dest = .registerA ∨ d.dest = .registerB ∨ d.dest = .outputPort := by
  simp only [Descriptor.wellFormed, hk, Bool.or_eq_true, decide_eq_true_eq] at hd
  obtain (hout | ha) | hb := hd
  · exact .inr (.inr hout)
  · exact .inl ha
  · exact .inr (.inl hb)

theorem Descriptor.dest_of_wellFormed_mov_inp {d : Descriptor} (hd : d.wellFormed = true)
    (hk : d.kind = .mov ∨ d.kind = .inp) : d.dest = .registerA ∨ d.dest = .registerB := by
  rcases hk with hk | hk <;> simpa [Descriptor.wellFormed, hk] using hd

end Sys2Proof

namespace Sys2Proof.Machine

/-! ### The Selector and the ALU phase (R64, R73) -/

theorem State.sel_memoryImmediate_toNat (s : State) : (s.sel .memoryImmediate).toNat = s.ir.toNat % 16 := by
  simp [State.sel, Byte.low]

/-- R63: a sum that is itself a nibble is stored unchanged. -/
theorem aluResult_toNat_self (x : Nibble) : aluResult x.toNat = x := by
  simp [aluResult]

theorem State.addResult_toNat (s : State) (d : Descriptor) (v : Byte) :
    (s.addResult d v).toNat = (s.latch v).operandSum d % 16 :=
  aluResult_toNat _

/-- With 0 as its second operand the sum is the first one. -/
theorem State.addResult_of_op2_zero {s : State} {d : Descriptor} {v : Byte} (h : (s.latch v).sel d.op2 = 0) :
    s.addResult d v = (s.latch v).sel d.op1 := by
  simp [State.addResult, State.operandSum, aluAdd, h, aluResult_toNat_self]

/-- With 0 as its first operand the sum is the second one. -/
theorem State.addResult_of_op1_zero {s : State} {d : Descriptor} {v : Byte} (h : (s.latch v).sel d.op1 = 0) :
    s.addResult d v = (s.latch v).sel d.op2 := by
  simp [State.addResult, State.operandSum, aluAdd, h, aluResult_toNat_self]

theorem State.raiseCarry_of_gt (s : State) {sum : Nat} (h : 15 < sum) : s.raiseCarry sum = { s with cf := true } := by
  simp [State.raiseCarry, carryOut, h]

theorem State.raiseCarry_of_le (s : State) {sum : Nat} (h : sum ≤ 15) : s.raiseCarry sum = s := by
  simp [State.raiseCarry, carryOut, Nat.not_lt.mpr h]

@[simp] theorem State.afterAdd_pc (s : State) (d : Descriptor) (v : Byte) : (s.afterAdd d v).pc = s.pc := rfl

theorem State.afterAdd_of_carry {s : State} {d : Descriptor} {v : Byte} (h : 15 < (s.latch v).operandSum d) :
    s.afterAdd d v = { s with ir := v, cf := true } :=
  State.raiseCarry_of_gt _ h

theorem State.afterAdd_of_no_carry {s : State} {d : Descriptor} {v : Byte} (h : (s.latch v).operandSum d ≤ 15) :
    s.afterAdd d v = { s with ir := v } :=
  State.raiseCarry_of_le _ h

/-! ### The counter after writeback (R74) -/

/-- A taken jump goes to the result, everything else goes on. -/
theorem nextPc_eq (k : Kind) (res : Nibble) (s : State) :
    nextPc k res s = if k = .jmp ∨ (k = .jnc ∧ s.cf = false) then res.toNat else s.pc.toNat + 1 := by
  cases k with
  | jnc => cases h : s.cf <;> simp [nextPc, pcIncrement, h]
  | add | mov | inp | out | jmp => simp [nextPc, pcIncrement]

/-- From an executable address no Step goes beyond the halt address. -/
theorem nextPc_le_fifteen {s : State} (hpc : s.pc.toNat ≤ 14) (k : Kind) (res : Nibble) : nextPc k res s ≤ 15 := by
  have hres := res.isLt
  rw [nextPc_eq]
  split <;> omega

/-- The two ways to the halt address (R76). -/
theorem nextPc_eq_fifteen_iff (k : Kind) (res : Nibble) (s : State) :
    nextPc k res s = 15 ↔
      (s.pc.toNat = 14 ∧ (k ≠ .jmp ∧ (k = .jnc → s.cf = true))) ∨
      (res = 15 ∧ (k = .jmp ∨ (k = .jnc ∧ s.cf = false))) := by
  have hres : res.toNat = 15 ↔ res = 15 := by rw [← BitVec.toNat_inj]; rfl
  have hgoesOn : (k ≠ .jmp ∧ (k = .jnc → s.cf = true)) ↔ ¬ (k = .jmp ∨ (k = .jnc ∧ s.cf = false)) := by simp
  rw [nextPc_eq, hgoesOn]
  split
  next htaken => simp [htaken, hres]
  next hnot => simp [hnot]

/-! ### The halt check (R76, R77) -/

theorem State.haltCheck_of_ge {s : State} {n : Nat} (h : 15 ≤ n) :
    s.haltCheck n = { s with pc := 0, report := some .halt } :=
  if_pos h

theorem State.haltCheck_of_lt {s : State} {n : Nat} (h : n < 15) :
    s.haltCheck n = { s with pc := BitVec.ofNat 4 n, report := some .cont } :=
  if_neg (Nat.not_le.mpr h)

theorem State.haltCheck_pc_toNat_of_lt {s : State} {n : Nat} (h : n < 15) : (s.haltCheck n).pc.toNat = n := by
  rw [State.haltCheck_of_lt h]
  exact Nat.mod_eq_of_lt (by omega)

/-- The halt check writes what it does not read: a second one overrides the first. -/
theorem State.haltCheck_haltCheck (s : State) (n m : Nat) : (s.haltCheck n).haltCheck m = s.haltCheck m := by
  rcases Nat.lt_or_ge n 15 with hn | hn <;> rcases Nat.lt_or_ge m 15 with hm | hm <;>
    simp [State.haltCheck_of_lt, State.haltCheck_of_ge, hn, hm]

theorem State.haltCheck_landed (s : State) (n : Nat) : Landed n (s.haltCheck n) := by
  refine ⟨fun h => ?_, fun h => ⟨State.haltCheck_pc_toNat_of_lt h, ?_⟩⟩
  · rw [State.haltCheck_of_ge h]; exact ⟨rfl, rfl⟩
  · rw [State.haltCheck_of_lt h]

theorem Landed.report_eq_halt_iff {target : Nat} {t : State} (h : Landed target t) :
    t.report = some .halt ↔ 15 ≤ target := by
  obtain ⟨hhalt, hcont⟩ := h
  refine ⟨fun hr => ?_, fun hge => (hhalt hge).2⟩
  by_contra hlt
  have hc := (hcont (Nat.not_le.mp hlt)).2
  rw [hr] at hc
  cases hc

/-! ### The uniform path: registers, flag and landing -/

section

variable {s : State} {d : Descriptor} {v : Byte}

/-- The kinds ADD, MOV and IN write the register their destination names, and no other one. -/
theorem State.runEntry_registers_of_store (hk : d.kind = .add ∨ d.kind = .mov ∨ d.kind = .inp) :
    (d.dest = .registerA → (s.runEntry d v).a = s.addResult d v) ∧
    (d.dest = .registerB → (s.runEntry d v).b = s.addResult d v) ∧
    (d.dest ≠ .registerA → (s.runEntry d v).a = s.a) ∧
    (d.dest ≠ .registerB → (s.runEntry d v).b = s.b) := by
  rw [runEntry_fields]
  exact ⟨fun h => if_pos ⟨hk, h⟩, fun h => if_pos ⟨hk, h⟩, fun h => if_neg fun hc => h hc.2,
    fun h => if_neg fun hc => h hc.2⟩

/-- The kinds OUT, JMP and JNC write neither general register. -/
theorem State.runEntry_registers_kept (hk : d.kind = .out ∨ d.kind = .jmp ∨ d.kind = .jnc) :
    (s.runEntry d v).a = s.a ∧ (s.runEntry d v).b = s.b := by
  rw [runEntry_fields]
  rcases hk with hk | hk | hk <;> simp [hk]

theorem State.runEntry_outp_of_output (h : d.kind = .out ∨ (d.kind = .add ∧ d.dest = .outputPort)) :
    (s.runEntry d v).outp = s.addResult d v := by
  rw [runEntry_fields]
  exact if_pos (by simpa [writesOutput] using h)

theorem State.runEntry_cf_of_ne_jnc (hk : d.kind ≠ .jnc) : (s.runEntry d v).cf = (s.afterAdd d v).cf := by
  rw [runEntry_fields]; simp [hk]

theorem State.runEntry_cf_of_jnc (hk : d.kind = .jnc) : (s.runEntry d v).cf = false := by
  rw [runEntry_fields]; simp [hk]

theorem State.runEntry_landed (s : State) (d : Descriptor) (v : Byte) :
    Landed (nextPc d.kind (s.addResult d v) (s.afterAdd d v)) (s.runEntry d v) :=
  State.haltCheck_landed _ _

/-- A taken jump lands at the result. -/
theorem State.runEntry_landed_of_taken (h : d.kind = .jmp ∨ (d.kind = .jnc ∧ (s.afterAdd d v).cf = false)) :
    Landed (s.addResult d v).toNat (s.runEntry d v) := by
  have hland := s.runEntry_landed d v
  rwa [nextPc_eq, if_pos h] at hland

/-- What is no taken jump lands at the next address. -/
theorem State.runEntry_landed_of_not_taken (h : ¬ (d.kind = .jmp ∨ (d.kind = .jnc ∧ (s.afterAdd d v).cf = false))) :
    Landed (s.pc.toNat + 1) (s.runEntry d v) := by
  have hland := s.runEntry_landed d v
  rwa [nextPc_eq, if_neg h, State.afterAdd_pc] at hland

theorem State.runEntry_landed_of_sequential (hjmp : d.kind ≠ .jmp) (hjnc : d.kind ≠ .jnc) :
    Landed (s.pc.toNat + 1) (s.runEntry d v) :=
  State.runEntry_landed_of_not_taken (by simp [hjmp, hjnc])

end

/-- The kinds MOV and IN have the same writeback (R74). -/
theorem State.runEntry_mov_eq_inp (s : State) (dest op1 op2 : Role) (v : Byte) :
    s.runEntry ⟨.mov, dest, op1, op2⟩ v = s.runEntry ⟨.inp, dest, op1, op2⟩ v := rfl

/-! ### The statements -/

/-- Settles O10: a move whose other operand resolves to 0 stores exactly what the role resolves to after the latch. -/
theorem selectorMap : Obligations.SelectorMap := by
  refine ⟨fun s => ⟨rfl, rfl, s.sel_memoryImmediate_toNat, rfl, rfl, rfl, rfl⟩, fun s role v => ⟨?_, ?_⟩⟩
  · obtain ⟨toA, -⟩ := State.runEntry_registers_of_store (s := s) (v := v)
      (d := ⟨.mov, .registerA, role, .constantUnused⟩) (.inr (.inl rfl))
    exact (toA rfl).trans (State.addResult_of_op2_zero rfl)
  · obtain ⟨-, toB, -⟩ := State.runEntry_registers_of_store (s := s) (v := v)
      (d := ⟨.mov, .registerB, .constantUnused, role⟩) (.inr (.inl rfl))
    exact (toB rfl).trans (State.addResult_of_op1_zero rfl)

/-- Settles O11: the sum of the statement is the operand sum after the latch; the JNC case lands by the flag that phase 4
left. -/
theorem executePhaseAddsAndRaisesCarry : Obligations.ExecutePhaseAddsAndRaisesCarry := by
  intro s d v seen sum
  have hres : (s.addResult d v).toNat = sum % 16 := s.addResult_toNat d v
  refine ⟨fun h => ⟨hres, State.afterAdd_of_carry h⟩,
    fun h => ⟨hres.trans (Nat.mod_eq_of_lt (by omega)), State.afterAdd_of_no_carry h⟩,
    State.runEntry_cf_of_ne_jnc, fun hk => ?_⟩
  split
  next hcf => exact State.runEntry_landed_of_not_taken (by simp [hk, hcf])
  next hcf => rw [← hres]; exact State.runEntry_landed_of_taken (.inr ⟨hk, by simpa using hcf⟩)

/-- Settles O12: by kind, from what the uniform path writes and where it lands; the destinations are R51 of the entry. -/
theorem writebackByKind : Obligations.WritebackByKind := by
  refine ⟨fun s d v => ⟨fun hk => ?add, fun hk => ?movIn, fun hk => ?out, fun hk => ?jmp, fun hk => ?jnc⟩,
    State.runEntry_mov_eq_inp, fun dec o d hdec hd => ?destinations⟩
  case add =>
    obtain ⟨toA, toB, keepA, keepB⟩ := State.runEntry_registers_of_store (s := s) (v := v) (.inl hk)
    exact ⟨toA, toB, fun hout => State.runEntry_outp_of_output (.inr ⟨hk, hout⟩), keepA, keepB,
      State.runEntry_landed_of_sequential (by simp [hk]) (by simp [hk])⟩
  case movIn =>
    obtain ⟨toA, toB, keepA, keepB⟩ := State.runEntry_registers_of_store (s := s) (v := v) (.inr hk)
    have hjmp : d.kind ≠ .jmp := by rcases hk with hk | hk <;> simp [hk]
    have hjnc : d.kind ≠ .jnc := by rcases hk with hk | hk <;> simp [hk]
    exact ⟨toA, toB, keepA, keepB, State.runEntry_landed_of_sequential hjmp hjnc⟩
  case out =>
    obtain ⟨ha, hb⟩ := State.runEntry_registers_kept (s := s) (v := v) (.inl hk)
    exact ⟨State.runEntry_outp_of_output (.inl hk), ha, hb,
      State.runEntry_landed_of_sequential (by simp [hk]) (by simp [hk])⟩
  case jmp =>
    obtain ⟨ha, hb⟩ := State.runEntry_registers_kept (s := s) (v := v) (.inr (.inl hk))
    exact ⟨ha, hb, State.runEntry_landed_of_taken (.inl hk)⟩
  case jnc =>
    obtain ⟨ha, hb⟩ := State.runEntry_registers_kept (s := s) (v := v) (.inr (.inr hk))
    exact ⟨ha, hb, State.runEntry_cf_of_jnc hk, fun hcf => State.runEntry_landed_of_taken (.inr ⟨hk, hcf⟩),
      fun hcf => State.runEntry_landed_of_not_taken (by simp [hk, hcf])⟩
  case destinations =>
    have hwf := DecTable.entry_wellFormed hdec hd
    exact ⟨Descriptor.dest_of_wellFormed_add hwf, Descriptor.dest_of_wellFormed_mov_inp hwf⟩

/-- Settles O16: the uniform path ends in the halt check of its counter, which from an executable address is at most 15. -/
theorem haltCheckOnlyResetsPc : Obligations.HaltCheckOnlyResetsPc := by
  refine ⟨fun s n => ⟨State.haltCheck_of_ge, fun h => ⟨State.haltCheck_pc_toNat_of_lt h, ?_⟩⟩,
    fun s d v hpc => ?_⟩
  · rw [State.haltCheck_of_lt h]
  · intro target
    have hle : target ≤ 15 := nextPc_le_fifteen (s := s.afterAdd d v) hpc d.kind (s.addResult d v)
    have hreport : (s.runEntry d v).report = some .halt ↔ target = 15 := by
      rw [(s.runEntry_landed d v).report_eq_halt_iff]
      exact ⟨fun hge => Nat.le_antisymm hle hge, fun heq => heq.ge⟩
    exact ⟨hle, (State.haltCheck_haltCheck _ target target).symm, hreport, nextPc_eq_fifteen_iff _ _ _⟩

end Sys2Proof.Machine

/-! Consecutive Resets (spec/70_reset_and_hazards.md R113, R114): a Reset reads nothing but the ROM, which it keeps, so a
second one finds what the first one left. -/

namespace Sys2Proof.Machine

/-- The ROM is all that a Reset keeps of the state before. -/
theorem State.applyReset_eq_of_rom_eq {s s' : State} (h : s.rom = s'.rom) : s.applyReset = s'.applyReset := by
  simp only [State.applyReset, State.clearRegisterFile, State.clearStatus, h]

@[simp] theorem State.applyReset_applyReset (s : State) : s.applyReset.applyReset = s.applyReset :=
  State.applyReset_eq_of_rom_eq s.applyReset_rom

/-- A Reset always answers, so a sequence that begins with one goes on from the state it leaves. -/
theorem runOps_reset_cons (ops : List HostOp) (s : State) : runOps (.reset :: ops) s = runOps ops s.applyReset := rfl

theorem runOps_replicate_reset (n : Nat) (s : State) :
    runOps (List.replicate (n + 1) .reset) s = .next s.applyReset := by
  induction n generalizing s with
  | zero => rfl
  | succ n ih => rw [List.replicate_succ, runOps_reset_cons, ih, State.applyReset_applyReset]

/-- Settles O37: by induction on their number, consecutive Resets leave what the first one leaves, and that depends on the
ROM alone. -/
theorem resetIsIdempotent : Obligations.ResetIsIdempotent := by
  refine ⟨fun n s => ⟨s.applyReset, runOps_replicate_reset n s, ?_⟩, fun n s s' hrom => ?_⟩
  · exact ⟨s.applyReset_pc, s.applyReset_ir, s.applyReset_a, s.applyReset_b, s.applyReset_inp, s.applyReset_outp,
      s.applyReset_cf, s.applyReset_rom⟩
  · rw [runOps_replicate_reset, runOps_replicate_reset, State.applyReset_eq_of_rom_eq hrom]

end Sys2Proof.Machine

/-! Bytes and instruction terms (spec/30_encoding.md R45, R52, R59): encoding and decoding undo one another, and the default
table's entry of an encoded instruction is the entry its meaning runs on. -/

namespace Sys2Proof

theorem decodeByte_encodeByte (i : Instr) : decodeByte (encodeByte i) = i := by
  cases i <;> rw [encodeByte, decodeByte, high_append, low_append] <;> rfl

theorem encodeByte_decodeByte : ∀ v : Byte, encodeByte (decodeByte v) = v := by decide

theorem decode_encode (i : Instr) (rest : List Byte) : decode (encode i ++ rest) = .ok (i, rest) :=
  congrArg (fun j => Except.ok (j, rest)) (decodeByte_encodeByte i)

theorem Byte.high_toNat (v : Byte) : (Byte.high v).toNat = v.toNat / 16 := by
  have hv := v.isLt
  simp only [Byte.high, BitVec.extractLsb'_toNat, Nat.shiftRight_eq_div_pow]
  omega

/-- The low nibble of a byte, read back as a byte (R11). -/
theorem Byte.setWidth_low (v : Byte) : (Byte.low v).setWidth 8 = BitVec.ofNat 8 (v.toNat % 16) := by
  refine BitVec.eq_of_toNat_eq ?_
  simp [Byte.low]

/-- The lowest bit of a byte, read back as a byte (R20). -/
theorem Byte.ofNat_toNat_bit_zero (v : Byte) : BitVec.ofNat 8 (v.getLsbD 0).toNat = BitVec.ofNat 8 (v.toNat % 2) := by
  rw [BitVec.getLsbD, Nat.testBit_zero]
  rcases Nat.mod_two_eq_zero_or_one v.toNat with h | h <;> simp [h]

theorem decodeEntry_append (dec : DecTable) (o low : Nibble) : decodeEntry dec (o ++ low) = dec o := by
  rw [decodeEntry, high_append]

/-! ### The default table (R52) -/

theorem decDefault_wellFormed : decDefault.wellFormed = true := by decide

theorem decDefault_eq_none_iff : ∀ o : Nibble,
    decDefault o = none ↔ o.toNat = 8 ∨ o.toNat = 10 ∨ o.toNat = 12 ∨ o.toNat = 13 := by decide

/-- The output instructions of the default table are the two OUT rows. -/
theorem opcode_of_writesOutput : ∀ o : Nibble, ∀ d ∈ decDefault o,
    Machine.writesOutput d = true → o = 0x9 ∨ o = 0xB := by decide

theorem decDefault_add_dest : ∀ o : Nibble, ∀ d ∈ decDefault o, d.kind = .add → d.dest ≠ .outputPort := by decide

theorem decDefault_move_op2 : ∀ o : Nibble, ∀ d ∈ decDefault o,
    d.kind = .mov ∨ d.kind = .inp → d.op2 = .constantUnused := by decide

/-- The well-formed instructions are those whose byte has an entry (R54). -/
theorem isSome_decodeEntry_encodeByte : ∀ i : Instr, (decodeEntry decDefault (encodeByte i)).isSome = i.wellFormed
  | .addAIm imm => (Laws.EncodeFields.addAIm imm).1
  | .movAB low => (Laws.EncodeFields.movAB low).1
  | .inA low => (Laws.EncodeFields.inA low).1
  | .movAIm imm => (Laws.EncodeFields.movAIm imm).1
  | .movBA low => (Laws.EncodeFields.movBA low).1
  | .addBIm imm => (Laws.EncodeFields.addBIm imm).1
  | .inB low => (Laws.EncodeFields.inB low).1
  | .movBIm imm => (Laws.EncodeFields.movBIm imm).1
  | .undefined8 low => (Laws.EncodeFields.undefined8 low).1
  | .outB low => (Laws.EncodeFields.outB low).1
  | .undefinedA low => (Laws.EncodeFields.undefinedA low).1
  | .outIm imm => (Laws.EncodeFields.outIm imm).1
  | .undefinedC low => (Laws.EncodeFields.undefinedC low).1
  | .undefinedD low => (Laws.EncodeFields.undefinedD low).1
  | .jncIm imm => (Laws.EncodeFields.jncIm imm).1
  | .jmpIm imm => (Laws.EncodeFields.jmpIm imm).1

/-! ### The statements on encoding -/

/-- Settles O1: the opcode and the low nibble of the encoding are read back field by field. -/
theorem decodeOfEncode : Obligations.DecodeOfEncode := decode_encode

/-- Settles O2: the term is the decoded one, and any other with this encoding decodes to itself, so it is that one. -/
theorem everyByteIsOneInstruction : Obligations.EveryByteIsOneInstruction := by
  refine ⟨rfl, fun v rest => ⟨decodeByte v, rfl, congrArg (fun w => [w]) (encodeByte_decodeByte v), fun j hj => ?_⟩⟩
  obtain rfl : encodeByte j = v := List.singleton_inj.mp hj
  exact (decodeByte_encodeByte j).symm

/-- Settles O3: one byte of each row, evaluated. -/
theorem specExampleBytesDecode : Obligations.SpecExampleBytesDecode := by
  refine ⟨?_, ?_, ?_, ?_, ?_, ?_, ?_, ?_, ?_, ?_, ?_, ?_, ?_, ?_, ?_, ?_⟩ <;> rfl

/-- Settles O4: whether a byte has an entry is told by its high nibble, which is the byte divided by 16. -/
theorem undefinedBytesAreExactly : Obligations.UndefinedBytesAreExactly := by
  intro v
  constructor
  · have hhigh := Byte.high_toNat v
    rw [decodeEntry, decDefault_eq_none_iff]
    omega
  · have hentry := isSome_decodeEntry_encodeByte (decodeByte v)
    rw [encodeByte_decodeByte] at hentry
    rw [← hentry, Option.isSome_eq_false_iff, Option.isNone_iff_eq_none]

end Sys2Proof

/-! The front of a Step and what each way of ending it makes of the Step (spec/40_datapath.md R68, R69;
spec/70_reset_and_hazards.md R116), for the machine of decoded instructions and for any decoder table. -/

namespace Sys2Proof.Machine

section

variable {s t : State} {v : Byte} {dec : DecTable} {o : Host.Outcome State Fault Refusal}

theorem State.front_of_neverReset (he : s.everReset = false) : s.front = .done (.refused .neverReset) := by
  simpa [he] using front_cases s

theorem State.front_of_latched (he : s.everReset = true) (hl : s.flt = true) : s.front = .done (.next s.reportFatal) := by
  simpa [he, hl] using front_cases s

theorem State.front_of_byte (he : s.everReset = true) (hl : s.flt = false) (hv : s.rom.read s.pc.toNat = some v) :
    s.front = .fetched v := by
  simpa [he, hl, hv] using front_cases s

theorem State.front_of_open (he : s.everReset = true) (hl : s.flt = false) (hv : s.rom.read s.pc.toNat = none) :
    s.front = .done (.fault (.romByteOpen s.pc.toNat)) := by
  simpa [he, hl, hv] using front_cases s

theorem step_of_done (h : s.front = .done o) : step s = o := by simp only [step, h]

theorem step_of_fetched (h : s.front = .fetched v) : step s = exec (decodeByte v) s := by simp only [step, h]

theorem stepWith_of_done (hdec : dec.wellFormed = true) (h : s.front = .done o) : stepWith dec s = o := by
  simp [stepWith, hdec, h]

theorem stepWith_of_fetched (hdec : dec.wellFormed = true) (h : s.front = .fetched v) :
    stepWith dec s = .next (s.runTable dec v) := by
  simp [stepWith, hdec, h]

theorem stepWith_of_illFormed (hdec : dec.wellFormed = false) : stepWith dec s = .refused .illFormedTable := by
  simp [stepWith, hdec]

theorem step_of_latched (he : s.everReset = true) (hl : s.flt = true) : step s = .next s.reportFatal :=
  step_of_done (State.front_of_latched he hl)

theorem step_of_byte (he : s.everReset = true) (hl : s.flt = false) (hv : s.rom.read s.pc.toNat = some v) :
    step s = exec (decodeByte v) s :=
  step_of_fetched (State.front_of_byte he hl hv)

/-! ### Running the fetched byte -/

theorem State.runTable_of_some {d : Descriptor} (h : decodeEntry dec v = some d) : s.runTable dec v = s.runEntry d v := by
  simp only [State.runTable, h]

theorem State.runTable_of_none (h : decodeEntry dec v = none) : s.runTable dec v = s.runUndefined v := by
  simp only [State.runTable, h]

/-- The fatal condition of an opcode without entry changes `IR`, the latch and the report (R99, R101). -/
theorem State.runUndefined_eq (s : State) (v : Byte) :
    s.runUndefined v = { s with ir := v, flt := true, report := some .fatal } := rfl

/-- Each instruction's meaning is the default table's entry of its own byte, run on the uniform path (R80). -/
theorem exec_eq_runTable (i : Instr) (s : State) : exec i s = .next (s.runTable decDefault (encodeByte i)) := by
  cases i <;> refine congrArg Host.Outcome.next ?_
  case undefined8 | undefinedA | undefinedC | undefinedD =>
    exact (State.runTable_of_none (decodeEntry_append decDefault _ _)).symm
  all_goals exact (State.runTable_of_some (decodeEntry_append decDefault _ _)).symm

theorem exec_decodeByte (v : Byte) (s : State) : exec (decodeByte v) s = .next (s.runTable decDefault v) := by
  rw [exec_eq_runTable, encodeByte_decodeByte]

end

/-- Settles O7: where the front ends the Step both machines end it alike, and a fetched byte runs its default entry. -/
theorem stepIsTableStepAtDefault : Obligations.StepIsTableStepAtDefault := by
  intro s
  cases h : s.front with
  | done o => rw [step_of_done h, stepWith_of_done decDefault_wellFormed h]
  | fetched v => rw [step_of_fetched h, stepWith_of_fetched decDefault_wellFormed h, exec_decodeByte]

/-- What a Step of any table that answers a next state did: the latch held it, its byte has no entry, or it ran its entry. -/
theorem stepWith_next_cases {dec : DecTable} {s t : State} (h : stepWith dec s = .next t) :
    (s.everReset = true ∧ s.flt = true ∧ t = s.reportFatal) ∨
    (s.everReset = true ∧ s.flt = false ∧ ∃ v, s.rom.read s.pc.toNat = some v ∧
      ((decodeEntry dec v = none ∧ t = s.runUndefined v) ∨ ∃ d, decodeEntry dec v = some d ∧ t = s.runEntry d v)) := by
  cases hdec : dec.wellFormed with
  | false => rw [stepWith_of_illFormed hdec] at h; cases h
  | true =>
    rcases front_cases s with ⟨_, hf⟩ | ⟨he, hl, hf⟩ | ⟨he, hl, v, hv, hf⟩ | ⟨_, _, _, hf⟩
    · rw [stepWith_of_done hdec hf] at h; cases h
    · rw [stepWith_of_done hdec hf] at h; cases h; exact .inl ⟨he, hl, rfl⟩
    · rw [stepWith_of_fetched hdec hf] at h; cases h
      refine .inr ⟨he, hl, v, hv, ?_⟩
      cases hd : decodeEntry dec v with
      | none => exact .inl ⟨rfl, State.runTable_of_none hd⟩
      | some d => exact .inr ⟨d, rfl, State.runTable_of_some hd⟩
    · rw [stepWith_of_done hdec hf] at h; cases h

theorem stepWith_default_of_step {s t : State} (h : step s = .next t) : stepWith decDefault s = .next t :=
  (stepIsTableStepAtDefault s).symm.trans h

/-! ### What the uniform path leaves in each element -/

section

variable {s : State} {d : Descriptor} {v : Byte}

@[simp] theorem State.runEntry_ir : (s.runEntry d v).ir = v := by rw [runEntry_fields]
@[simp] theorem State.runEntry_inp : (s.runEntry d v).inp = s.inp := by rw [runEntry_fields]
@[simp] theorem State.runEntry_flt : (s.runEntry d v).flt = s.flt := by rw [runEntry_fields]
@[simp] theorem State.runEntry_everReset : (s.runEntry d v).everReset = s.everReset := by rw [runEntry_fields]

theorem State.runEntry_stepFrame : StepFrame s (s.runEntry d v) :=
  ⟨State.runEntry_inp, State.runEntry_flt, State.runEntry_everReset, fun addr => by rw [State.runEntry_rom]⟩

/-- The output pulse (R75, D4): what is no output instruction leaves 0 at the port. -/
theorem State.runEntry_outp_of_not_output (h : writesOutput d = false) : (s.runEntry d v).outp = 0 := by
  rw [runEntry_fields]; simp [h]

theorem State.runEntry_cf (s : State) (d : Descriptor) (v : Byte) :
    (s.runEntry d v).cf = ((s.cf || carryOut ((s.latch v).operandSum d)) && decide (d.kind ≠ .jnc)) := by
  rw [runEntry_fields]; rfl

/-- R73: every kind but JNC leaves the flag raised by a sum above 15, and never cleared. -/
theorem State.runEntry_cf_iff (hk : d.kind ≠ .jnc) :
    (s.runEntry d v).cf = true ↔ s.cf = true ∨ (s.latch v).operandSum d > 15 := by
  simp [State.runEntry_cf, hk, carryOut]

/-- R73: a sum of one nibble and 0 raises no carry. -/
theorem State.afterAdd_cf_of_op2_unused (h : d.op2 = .constantUnused) : (s.afterAdd d v).cf = s.cf := by
  have hlt := ((s.latch v).sel d.op1).isLt
  have hsum : (s.latch v).operandSum d ≤ 15 := by
    simp only [State.operandSum, aluAdd, h]
    exact Nat.le_of_lt_succ hlt
  rw [State.afterAdd_of_no_carry hsum]

theorem State.addResult_of_op2_unused (h : d.op2 = .constantUnused) : s.addResult d v = (s.latch v).sel d.op1 :=
  State.addResult_of_op2_zero (by rw [h]; rfl)

/-- The kinds ADD, MOV and IN on a general register: the sum modulo 16 there, the other register kept. -/
theorem State.runEntry_store_toNat (hk : d.kind = .add ∨ d.kind = .mov ∨ d.kind = .inp) :
    (d.dest = .registerA → (s.runEntry d v).a.toNat = (s.latch v).operandSum d % 16 ∧ (s.runEntry d v).b = s.b) ∧
    (d.dest = .registerB → (s.runEntry d v).b.toNat = (s.latch v).operandSum d % 16 ∧ (s.runEntry d v).a = s.a) := by
  obtain ⟨toA, toB, keepA, keepB⟩ := State.runEntry_registers_of_store (s := s) (v := v) hk
  rw [← s.addResult_toNat d v]
  exact ⟨fun h => ⟨congrArg _ (toA h), keepB (by simp [h])⟩, fun h => ⟨congrArg _ (toB h), keepA (by simp [h])⟩⟩

end

/-- R64: the Selector reads A, B, the input port and `IR` alone. -/
theorem State.sel_congr {s s' : State} (hir : s'.ir = s.ir) (ha : s'.a = s.a) (hb : s'.b = s.b) (hinp : s'.inp = s.inp)
    (role : Role) : s'.sel role = s.sel role := by
  cases role with
  | registerA => exact ha
  | registerB => exact hb
  | memoryImmediate => exact congrArg Byte.low hir
  | inputPort => exact hinp
  | outputPort | programCounterTarget | constantUnused => rfl

theorem State.operandSum_latch_congr {s s' : State} (ha : s'.a = s.a) (hb : s'.b = s.b) (hinp : s'.inp = s.inp)
    (d : Descriptor) (v : Byte) : (s'.latch v).operandSum d = (s.latch v).operandSum d := by
  have hsel := State.sel_congr (s := s.latch v) (s' := s'.latch v) rfl ha hb hinp
  rw [State.operandSum, State.operandSum, hsel, hsel]

/-- All that the uniform path reads of the state: the operands' sum, the registers it may keep, `pc`, and for a JNC the flag.
States that agree on these are left alike in A, B, the output port, `pc` and the report. -/
theorem State.runEntry_congr {s s' : State} {d : Descriptor} {v v' : Byte}
    (hsum : (s'.latch v').operandSum d = (s.latch v).operandSum d) (ha : s'.a = s.a) (hb : s'.b = s.b)
    (hpc : s'.pc = s.pc) (hcf : d.kind = .jnc → s'.cf = s.cf) :
    s'.runEntry d v' =
      { s.runEntry d v with
        ir := v', inp := s'.inp, cf := (s'.runEntry d v').cf, flt := s'.flt, everReset := s'.everReset, rom := s'.rom } := by
  have hres : s'.addResult d v' = s.addResult d v := congrArg aluResult hsum
  have hnext : nextPc d.kind (s'.addResult d v') (s'.afterAdd d v') =
      nextPc d.kind (s.addResult d v) (s.afterAdd d v) := by
    have hcf4 : d.kind = .jnc → (s'.afterAdd d v').cf = (s.afterAdd d v).cf := fun hk => by
      simp only [State.afterAdd, State.raiseCarry_cf, State.latch_cf, hsum, hcf hk]
    rw [nextPc_eq, nextPc_eq, hres, State.afterAdd_pc, State.afterAdd_pc, hpc]
    by_cases hk : d.kind = .jnc
    · rw [hcf4 hk]
    · simp [hk]
  rw [runEntry_fields s' d v', runEntry_fields s d v, hnext, hres, ha, hb]

/-- With the flag alike as well, the path leaves the flag alike. -/
theorem State.runEntry_congr_of_cf {s s' : State} {d : Descriptor} {v v' : Byte}
    (hsum : (s'.latch v').operandSum d = (s.latch v).operandSum d) (ha : s'.a = s.a) (hb : s'.b = s.b)
    (hpc : s'.pc = s.pc) (hcf : s'.cf = s.cf) :
    s'.runEntry d v' =
      { s.runEntry d v with ir := v', inp := s'.inp, flt := s'.flt, everReset := s'.everReset, rom := s'.rom } := by
  have hcf' : (s'.runEntry d v').cf = (s.runEntry d v).cf := by rw [State.runEntry_cf, State.runEntry_cf, hsum, hcf]
  rw [State.runEntry_congr hsum ha hb hpc fun _ => hcf, hcf']

end Sys2Proof.Machine

/-! The kinds and the twelve instructions (spec/41_add.md to spec/44_jump.md): each is the uniform path on its entry, so each
statement is read off what that path leaves. -/

namespace Sys2Proof.Machine

/-! ### The kinds, for any descriptor -/

section

variable {s : State} {d : Descriptor} {v : Byte}

/-- Apart from a JNC the flag feeds nothing but itself. -/
theorem State.runEntry_withCf (s : State) (v : Byte) (c : Bool) (hk : d.kind ≠ .jnc) :
    ({ s with cf := c } : State).runEntry d v =
      { s.runEntry d v with cf := (({ s with cf := c } : State).runEntry d v).cf } := by
  have h := State.runEntry_congr (s := s) (s' := { s with cf := c }) (d := d) (v := v) (v' := v)
    (State.operandSum_latch_congr rfl rfl rfl d v) rfl rfl rfl (fun hjnc => absurd hjnc hk)
  rw [h, runEntry_fields s d v]

theorem State.runEntry_outp_toNat_of_output (h : d.kind = .out ∨ (d.kind = .add ∧ d.dest = .outputPort)) :
    (s.runEntry d v).outp.toNat = (s.latch v).operandSum d % 16 := by
  rw [State.runEntry_outp_of_output h, State.addResult_toNat]

end

/-- The kind OUT writes the output port whatever its destination role. -/
theorem State.runEntry_out_dest (s : State) (dest op1 op2 : Role) (v : Byte) :
    s.runEntry ⟨.out, dest, op1, op2⟩ v = s.runEntry ⟨.out, .outputPort, op1, op2⟩ v := rfl

/-- R76, R77: where a Step lands there is a report, and it is not `Fatal`. -/
theorem Landed.report_eq {target : Nat} {t : State} (h : Landed target t) :
    (t.pc = 0 ∧ t.report = some .halt) ∨ (t.pc.toNat < 15 ∧ t.report = some .cont) := by
  obtain ⟨hhalt, hcont⟩ := h
  rcases Nat.lt_or_ge target 15 with hlt | hge
  · obtain ⟨hpc, hreport⟩ := hcont hlt
    exact .inr ⟨hpc ▸ hlt, hreport⟩
  · exact .inl (hhalt hge)

theorem Landed.report_ne_fatal {target : Nat} {t : State} (h : Landed target t) : t.report ≠ some .fatal := by
  rcases h.report_eq with ⟨_, hr⟩ | ⟨_, hr⟩ <;> simp [hr]

/-- Settles O13: the ADD clauses of the uniform path; the default table's ADD entries name A and B. -/
theorem addKindForAnyDescriptor : Obligations.AddKindForAnyDescriptor := by
  refine ⟨fun s dest op1 op2 v => ?_, fun s dest op1 op2 v c => s.runEntry_withCf v c (by simp), fun s v d hd hk => ?_⟩
  · obtain ⟨toA, toB⟩ := State.runEntry_store_toNat (s := s) (v := v) (d := ⟨.add, dest, op1, op2⟩) (.inl rfl)
    obtain ⟨-, -, keepA, keepB⟩ :=
      State.runEntry_registers_of_store (s := s) (v := v) (d := ⟨.add, dest, op1, op2⟩) (.inl rfl)
    exact ⟨fun hout => ⟨State.runEntry_outp_toNat_of_output (.inr ⟨rfl, hout⟩), keepA (by simp [hout]),
      keepB (by simp [hout])⟩, toA, toB, State.runEntry_cf_iff (by simp),
      State.runEntry_landed_of_sequential (by simp) (by simp)⟩
  · have hdest := decDefault_add_dest _ d hd hk
    exact ⟨hdest, State.runEntry_outp_of_not_output (by simp [writesOutput, hk, hdest])⟩

/-- Settles O14: the MOV and IN clauses of the uniform path; the default table's entries add the constant 0. -/
theorem movAndInKindsForAnyDescriptor : Obligations.MovAndInKindsForAnyDescriptor := by
  refine ⟨fun s k dest op1 op2 v hk => ?_, fun s k dest op1 op2 v c hk => s.runEntry_withCf v c ?_,
    fun s v d hd hk => ?_⟩
  · obtain ⟨toA, toB⟩ := State.runEntry_store_toNat (s := s) (v := v) (d := ⟨k, dest, op1, op2⟩) (.inr hk)
    have hjmp : k ≠ .jmp := by rcases hk with rfl | rfl <;> simp
    have hjnc : k ≠ .jnc := by rcases hk with rfl | rfl <;> simp
    exact ⟨toA, toB, State.runEntry_cf_iff hjnc, State.runEntry_landed_of_sequential hjmp hjnc,
      s.runEntry_mov_eq_inp dest op1 op2 v⟩
  · rcases hk with rfl | rfl <;> simp
  · have hop2 := decDefault_move_op2 _ d hd hk
    have hjnc : d.kind ≠ .jnc := by rcases hk with hk | hk <;> simp [hk]
    exact ⟨hop2, State.addResult_of_op2_unused hop2,
      (State.runEntry_cf_of_ne_jnc hjnc).trans (State.afterAdd_cf_of_op2_unused hop2)⟩

/-- Settles O15: the OUT clauses of the uniform path; the value's life by what the Step of a table did. -/
theorem outKindForAnyDescriptor : Obligations.OutKindForAnyDescriptor := by
  refine ⟨fun s dest op1 op2 v => ?_, fun s dest op1 op2 v c => s.runEntry_withCf v c (by simp), fun dec s t h => ?_⟩
  · exact ⟨State.runEntry_outp_toNat_of_output (.inl rfl), State.runEntry_cf_iff (by simp),
      State.runEntry_landed_of_sequential (by simp) (by simp), s.runEntry_out_dest dest op1 op2 v⟩
  · obtain ⟨_, _, rfl⟩ | ⟨_, hl, v, _, ⟨_, rfl⟩ | ⟨d, hd, rfl⟩⟩ := stepWith_next_cases h
    · exact ⟨fun _ => rfl, fun hne => absurd rfl hne⟩
    · exact ⟨fun _ => rfl, fun hne => absurd rfl hne⟩
    · refine ⟨fun hfatal => absurd hfatal (s.runEntry_landed d v).report_ne_fatal, fun _ => ⟨d, ?_, fun hno => ?_, fun hout => ?_⟩⟩
      · rwa [State.runEntry_ir]
      · exact State.runEntry_outp_of_not_output (by simpa [writesOutput] using hno)
      · rw [State.runEntry_ir]; exact State.runEntry_outp_of_output hout

/-! ### Entries of the default table -/

section

variable {s : State} {k : Kind} {op1 : Role} {v : Byte}

/-- R64, R69: the immediate of an instruction is the low nibble of the byte just latched. -/
@[simp] theorem State.sel_latch_immediate (s : State) (o imm : Nibble) :
    (s.latch (o ++ imm)).sel .memoryImmediate = imm :=
  low_append o imm

theorem State.operandSum_latch_immediate (s : State) (k : Kind) (dest op1 : Role) (o imm : Nibble) :
    (s.latch (o ++ imm)).operandSum ⟨k, dest, op1, .memoryImmediate⟩ =
      ((s.latch (o ++ imm)).sel op1).toNat + imm.toNat := by
  rw [State.operandSum, State.sel_latch_immediate, aluAdd]

/-- What every instruction that is no jump leaves besides its result. -/
theorem State.runEntry_sequential {d : Descriptor} (hjmp : d.kind ≠ .jmp) (hjnc : d.kind ≠ .jnc) :
    (s.runEntry d v).ir = v ∧ Landed (s.pc.toNat + 1) (s.runEntry d v) ∧ StepFrame s (s.runEntry d v) :=
  ⟨State.runEntry_ir, State.runEntry_landed_of_sequential hjmp hjnc, State.runEntry_stepFrame⟩

/-- An ADD entry to a general register: port, flag, `IR`, landing and frame. -/
theorem State.runEntry_add_rest {d : Descriptor} (hk : d.kind = .add) (hdest : d.dest ≠ .outputPort) :
    (s.runEntry d v).outp = 0 ∧ (s.runEntry d v).cf = (s.cf || decide ((s.latch v).operandSum d > 15)) ∧
    (s.runEntry d v).ir = v ∧ Landed (s.pc.toNat + 1) (s.runEntry d v) ∧ StepFrame s (s.runEntry d v) := by
  refine ⟨State.runEntry_outp_of_not_output (by simp [writesOutput, hk, hdest]), ?_,
    State.runEntry_sequential (by simp [hk]) (by simp [hk])⟩
  simp [State.runEntry_cf, hk, carryOut]

/-- A MOV or IN entry with the constant 0 as second operand: port, flag, `IR`, landing and frame. -/
theorem State.runEntry_move_rest {d : Descriptor} (hk : d.kind = .mov ∨ d.kind = .inp) (hop2 : d.op2 = .constantUnused) :
    (s.runEntry d v).outp = 0 ∧ (s.runEntry d v).cf = s.cf ∧
    (s.runEntry d v).ir = v ∧ Landed (s.pc.toNat + 1) (s.runEntry d v) ∧ StepFrame s (s.runEntry d v) := by
  have hout : writesOutput d = false := by rcases hk with hk | hk <;> simp [writesOutput, hk]
  have hjmp : d.kind ≠ .jmp := by rcases hk with hk | hk <;> simp [hk]
  have hjnc : d.kind ≠ .jnc := by rcases hk with hk | hk <;> simp [hk]
  exact ⟨State.runEntry_outp_of_not_output hout,
    (State.runEntry_cf_of_ne_jnc hjnc).trans (State.afterAdd_cf_of_op2_unused hop2), State.runEntry_sequential hjmp hjnc⟩

/-- A MOV or IN entry to A moves its first operand there. -/
theorem State.runEntry_moveA (hk : k = .mov ∨ k = .inp) :
    let t := s.runEntry ⟨k, .registerA, op1, .constantUnused⟩ v
    t.a = (s.latch v).sel op1 ∧ t.b = s.b ∧ t.outp = 0 ∧ t.cf = s.cf ∧ t.ir = v ∧ Landed (s.pc.toNat + 1) t ∧
      StepFrame s t := by
  obtain ⟨toA, -, -, keepB⟩ := State.runEntry_registers_of_store (s := s) (v := v)
    (d := ⟨k, .registerA, op1, .constantUnused⟩) (.inr hk)
  exact ⟨(toA rfl).trans (State.addResult_of_op2_unused rfl), keepB (by simp), State.runEntry_move_rest hk rfl⟩

/-- A MOV or IN entry to B moves its first operand there. -/
theorem State.runEntry_moveB (hk : k = .mov ∨ k = .inp) :
    let t := s.runEntry ⟨k, .registerB, op1, .constantUnused⟩ v
    t.b = (s.latch v).sel op1 ∧ t.a = s.a ∧ t.outp = 0 ∧ t.cf = s.cf ∧ t.ir = v ∧ Landed (s.pc.toNat + 1) t ∧
      StepFrame s t := by
  obtain ⟨-, toB, keepA, -⟩ := State.runEntry_registers_of_store (s := s) (v := v)
    (d := ⟨k, .registerB, op1, .constantUnused⟩) (.inr hk)
  exact ⟨(toB rfl).trans (State.addResult_of_op2_unused rfl), keepA (by simp), State.runEntry_move_rest hk rfl⟩

/-- An OUT entry with the constant 0 as second operand shows its first operand. -/
theorem State.runEntry_outOf :
    let t := s.runEntry ⟨.out, .outputPort, op1, .constantUnused⟩ v
    t.outp = (s.latch v).sel op1 ∧ t.a = s.a ∧ t.b = s.b ∧ t.cf = s.cf ∧ t.ir = v ∧ Landed (s.pc.toNat + 1) t ∧
      StepFrame s t := by
  obtain ⟨keepA, keepB⟩ := State.runEntry_registers_kept (s := s) (v := v)
    (d := ⟨.out, .outputPort, op1, .constantUnused⟩) (.inl rfl)
  exact ⟨(State.runEntry_outp_of_output (.inl rfl)).trans (State.addResult_of_op2_unused rfl), keepA, keepB,
    (State.runEntry_cf_of_ne_jnc (by simp)).trans (State.afterAdd_cf_of_op2_unused rfl),
    State.runEntry_sequential (by simp) (by simp)⟩

end

/-! ### ADD -/

/-- Settles O17: the operand sum is A plus the immediate. -/
theorem addAImmediate : Obligations.AddAImmediate := by
  intro imm s
  have hsum : (s.latch (0b0000#4 ++ imm)).operandSum ⟨.add, .registerA, .registerA, .memoryImmediate⟩ =
      s.a.toNat + imm.toNat := s.operandSum_latch_immediate _ _ .registerA _ imm
  obtain ⟨toA, -⟩ := State.runEntry_store_toNat (s := s) (v := 0b0000#4 ++ imm)
    (d := ⟨.add, .registerA, .registerA, .memoryImmediate⟩) (.inl rfl)
  have hrest := State.runEntry_add_rest (s := s) (v := 0b0000#4 ++ imm)
    (d := ⟨.add, .registerA, .registerA, .memoryImmediate⟩) rfl (by simp)
  rw [hsum] at toA hrest
  obtain ⟨ha, hb⟩ := toA rfl
  exact ⟨decode_encode (.addAIm imm) [], _, rfl, ha, hb, hrest⟩

/-- Settles O18: the operand sum is B plus the immediate. -/
theorem addBImmediate : Obligations.AddBImmediate := by
  intro imm s
  have hsum : (s.latch (0b0101#4 ++ imm)).operandSum ⟨.add, .registerB, .registerB, .memoryImmediate⟩ =
      s.b.toNat + imm.toNat := s.operandSum_latch_immediate _ _ .registerB _ imm
  obtain ⟨-, toB⟩ := State.runEntry_store_toNat (s := s) (v := 0b0101#4 ++ imm)
    (d := ⟨.add, .registerB, .registerB, .memoryImmediate⟩) (.inl rfl)
  have hrest := State.runEntry_add_rest (s := s) (v := 0b0101#4 ++ imm)
    (d := ⟨.add, .registerB, .registerB, .memoryImmediate⟩) rfl (by simp)
  rw [hsum] at toB hrest
  obtain ⟨hb, ha⟩ := toB rfl
  exact ⟨decode_encode (.addBIm imm) [], _, rfl, hb, ha, hrest⟩

/-! ### MOV and IN: the first operand, moved -/

/-- Settles O19: a move to A, from the operand B. -/
theorem movAFromB : Obligations.MovAFromB :=
  fun low _ => ⟨decode_encode (.movAB low) [], _, rfl, State.runEntry_moveA (.inl rfl)⟩

/-- Settles O20: the operand is the latched byte's low nibble. -/
theorem movAImmediate : Obligations.MovAImmediate := by
  intro imm s
  have hmove := State.runEntry_moveA (s := s) (op1 := .memoryImmediate) (v := 0b0011#4 ++ imm) (.inl rfl)
  rw [State.sel_latch_immediate] at hmove
  exact ⟨decode_encode (.movAIm imm) [], _, rfl, hmove⟩

/-- Settles O21: a move to B, from the operand A. -/
theorem movBFromA : Obligations.MovBFromA :=
  fun low _ => ⟨decode_encode (.movBA low) [], _, rfl, State.runEntry_moveB (.inl rfl)⟩

/-- Settles O22: the operand is the latched byte's low nibble. -/
theorem movBImmediate : Obligations.MovBImmediate := by
  intro imm s
  have hmove := State.runEntry_moveB (s := s) (op1 := .memoryImmediate) (v := 0b0111#4 ++ imm) (.inl rfl)
  rw [State.sel_latch_immediate] at hmove
  exact ⟨decode_encode (.movBIm imm) [], _, rfl, hmove⟩

/-- Settles O23: a move to A, from the operand of the input port. -/
theorem inToA : Obligations.InToA :=
  fun low _ => ⟨decode_encode (.inA low) [], _, rfl, State.runEntry_moveA (.inr rfl)⟩

/-- Settles O24: a move to B, from the operand of the input port. -/
theorem inToB : Obligations.InToB :=
  fun low _ => ⟨decode_encode (.inB low) [], _, rfl, State.runEntry_moveB (.inr rfl)⟩

/-! ### OUT -/

/-- Settles O25: the first operand, B, at the output port. -/
theorem outFromB : Obligations.OutFromB :=
  fun low _ => ⟨decode_encode (.outB low) [], _, rfl, State.runEntry_outOf⟩

/-- Settles O26: the operand is the latched byte's low nibble. -/
theorem outImmediate : Obligations.OutImmediate := by
  intro imm s
  have hout := State.runEntry_outOf (s := s) (op1 := .memoryImmediate) (v := 0b1011#4 ++ imm)
  rw [State.sel_latch_immediate] at hout
  exact ⟨decode_encode (.outIm imm) [], _, rfl, hout⟩

/-! ### Jumps -/

/-- The result of a jump of the default table is its immediate. -/
theorem State.addResult_jump (s : State) (k : Kind) (o imm : Nibble) :
    s.addResult ⟨k, .programCounterTarget, .memoryImmediate, .constantUnused⟩ (o ++ imm) = imm :=
  (State.addResult_of_op2_unused rfl).trans (s.sel_latch_immediate o imm)

/-- Settles O27: a taken jump lands at its result. -/
theorem jumpImmediate : Obligations.JumpImmediate := by
  intro imm s
  have hland := State.runEntry_landed_of_taken (s := s) (v := 0b1111#4 ++ imm)
    (d := ⟨.jmp, .programCounterTarget, .memoryImmediate, .constantUnused⟩) (.inl rfl)
  rw [State.addResult_jump] at hland
  obtain ⟨keepA, keepB⟩ := State.runEntry_registers_kept (s := s) (v := 0b1111#4 ++ imm)
    (d := ⟨.jmp, .programCounterTarget, .memoryImmediate, .constantUnused⟩) (.inr (.inl rfl))
  exact ⟨decode_encode (.jmpIm imm) [], _, rfl, hland, keepA, keepB, State.runEntry_outp_of_not_output rfl,
    (State.runEntry_cf_of_ne_jnc (by simp)).trans (State.afterAdd_cf_of_op2_unused rfl), State.runEntry_ir,
    State.runEntry_stepFrame⟩

/-- Settles O28: the flag that phase 4 leaves is the old one, as the sum with 0 raises none. -/
theorem jumpIfNotCarryImmediate : Obligations.JumpIfNotCarryImmediate := by
  intro imm s
  obtain ⟨keepA, keepB⟩ := State.runEntry_registers_kept (s := s) (v := 0b1110#4 ++ imm)
    (d := ⟨.jnc, .programCounterTarget, .memoryImmediate, .constantUnused⟩) (.inr (.inr rfl))
  have hcf4 := State.afterAdd_cf_of_op2_unused (s := s) (v := 0b1110#4 ++ imm)
    (d := ⟨.jnc, .programCounterTarget, .memoryImmediate, .constantUnused⟩) rfl
  refine ⟨decode_encode (.jncIm imm) [], _, rfl, fun hcf => ?taken, fun hcf => ?notTaken,
    State.runEntry_cf_of_jnc rfl, keepA, keepB, State.runEntry_outp_of_not_output rfl, State.runEntry_ir,
    State.runEntry_stepFrame⟩
  case taken =>
    have hland := State.runEntry_landed_of_taken (s := s) (v := 0b1110#4 ++ imm)
      (d := ⟨.jnc, .programCounterTarget, .memoryImmediate, .constantUnused⟩) (.inr ⟨rfl, hcf4.trans hcf⟩)
    rwa [State.addResult_jump] at hland
  case notTaken => exact State.runEntry_landed_of_not_taken (by simp [encodeByte, hcf4, hcf])

/-! ### The undefined opcodes, the pseudo-instructions and the unused nibble -/

/-- Settles O29: the four meanings are the fatal condition of their byte, and a Step decodes such a byte by its opcode. -/
theorem undefinedOpcodesRaiseFatal : Obligations.UndefinedOpcodesRaiseFatal := by
  refine fun low s => ⟨rfl, rfl, rfl, rfl, fun v hv he hl hread => ?_⟩
  have hnone : decodeEntry decDefault v = none := by
    rcases hv with rfl | rfl | rfl | rfl <;> exact decodeEntry_append decDefault _ low
  rw [step_of_byte he hl hread, exec_decodeByte, State.runTable_of_none hnone, State.runUndefined_eq]

/-- Settles O30: `HALT` is a taken jump to 15; `NOP` adds 0, which neither wraps nor carries. -/
theorem pseudoInstructions : Obligations.PseudoInstructions := by
  refine ⟨rfl, rfl, rfl, rfl, fun s => ⟨?halt, ?nop⟩⟩
  case halt =>
    obtain ⟨-, t, hexec, ⟨hland, -⟩, ha, hb, houtp, hcf, hir, hinp, hflt, hreset, -⟩ := jumpImmediate 15 s
    obtain ⟨hpc, hreport⟩ := hland (by decide)
    rw [hexec, Host.Outcome.next.injEq, State.mk.injEq]
    exact ⟨hir, ha, hb, hinp, houtp, hpc, hcf, hflt, hreport, hreset, exec_rom hexec⟩
  case nop =>
    obtain ⟨-, t, hexec, ha, hb, houtp, hcf, hir, hland, hframe⟩ := addAImmediate 0 s
    have hlt := s.a.isLt
    have hsum : s.a.toNat + (0 : Nibble).toNat = s.a.toNat := rfl
    rw [hsum] at ha hcf
    refine ⟨t, hexec, BitVec.eq_of_toNat_eq (ha.trans (Nat.mod_eq_of_lt hlt)), hb, ?_, houtp, hir, hland, hframe⟩
    simpa [Nat.not_lt.mpr (Nat.le_of_lt_succ hlt)] using hcf

/-- Where no operand is the immediate, the latched byte reaches `IR` alone (R53). -/
theorem State.runEntry_byte_only_in_ir {d : Descriptor} (h1 : d.op1 ≠ .memoryImmediate) (h2 : d.op2 ≠ .memoryImmediate)
    (s : State) (v v' : Byte) : s.runEntry d v' = { s.runEntry d v with ir := v' } := by
  have hsel : ∀ role, role ≠ .memoryImmediate → (s.latch v').sel role = (s.latch v).sel role := by
    intro role hrole
    cases role with
    | memoryImmediate => exact absurd rfl hrole
    | registerA | registerB | inputPort | outputPort | programCounterTarget | constantUnused => rfl
  have hsum : (s.latch v').operandSum d = (s.latch v).operandSum d := by
    rw [State.operandSum, State.operandSum, hsel _ h1, hsel _ h2]
  rw [State.runEntry_congr_of_cf hsum rfl rfl rfl rfl, runEntry_fields s d v]

/-- Settles O5: none of the five entries has the immediate as an operand. -/
theorem unusedLowNibbleOnlyInIr : Obligations.UnusedLowNibbleOnlyInIr := by
  intro s low
  refine ⟨⟨_, rfl, ?_⟩, ⟨_, rfl, ?_⟩, ⟨_, rfl, ?_⟩, ⟨_, rfl, ?_⟩, ⟨_, rfl, ?_⟩⟩ <;>
    exact congrArg Host.Outcome.next (State.runEntry_byte_only_in_ir (by simp) (by simp) s _ _)

end Sys2Proof.Machine

/-! Decoder tables as a parameter (spec/30_encoding.md R50, R51; spec/40_datapath.md R78): which tables are refused, and the
closed form of the Step of the others. -/

namespace Sys2Proof

/-! ### The four checks on a table, and what fails each -/

theorem DecTable.hasEntry_iff {dec : DecTable} {p : Descriptor → Bool} :
    dec.hasEntry p = true ↔ ∃ o d, dec o = some d ∧ p d = true := by
  simp [DecTable.hasEntry, mem_opcodes, Option.any_eq_true]

theorem DecTable.hasEntry_eq_false_iff {dec : DecTable} {p : Descriptor → Bool} :
    dec.hasEntry p = false ↔ ∀ o d, dec o = some d → p d = false := by
  rw [← Bool.not_eq_true, DecTable.hasEntry_iff]
  simp

theorem mem_kinds (k : Kind) : k ∈ kinds := by cases k <;> decide

theorem DecTable.lacksUndefined_eq_false_iff {dec : DecTable} :
    dec.lacksUndefined = false ↔ ∃ o ∈ [0x8#4, 0xA#4, 0xC#4, 0xD#4], dec o ≠ none := by
  simp only [DecTable.lacksUndefined, Bool.and_eq_false_iff, or_assoc]
  simp [Option.isSome_iff_ne_none]

theorem DecTable.coversKinds_eq_false_iff {dec : DecTable} :
    dec.coversKinds = false ↔ ∃ k : Kind, ∀ o d, dec o = some d → d.kind ≠ k := by
  simp [DecTable.coversKinds, mem_kinds, DecTable.hasEntry_eq_false_iff]

theorem DecTable.hasOutImmediate_eq_false_iff {dec : DecTable} :
    dec.hasOutImmediate = false ↔ ∀ o d, dec o = some d → d.kind = .out →
      ¬ (d.op1 = .memoryImmediate ∧ d.op2 ∈ [Role.constantUnused, .outputPort, .programCounterTarget]) ∧
      ¬ (d.op2 = .memoryImmediate ∧ d.op1 ∈ [Role.constantUnused, .outputPort, .programCounterTarget]) := by
  rw [DecTable.hasOutImmediate, DecTable.hasEntry_eq_false_iff]
  refine forall₃_congr fun o d _ => ?_
  rw [← Bool.not_eq_true, ← not_or]
  simp [or_assoc]

/-- R51: the destinations that each kind refuses. -/
theorem Descriptor.wellFormed_eq_false_iff {d : Descriptor} :
    d.wellFormed = false ↔
      (d.kind = .add ∧ d.dest ≠ .outputPort ∧ d.dest ≠ .registerA ∧ d.dest ≠ .registerB) ∨
      ((d.kind = .mov ∨ d.kind = .inp) ∧ d.dest ≠ .registerA ∧ d.dest ≠ .registerB) := by
  cases hk : d.kind <;> simp [Descriptor.wellFormed, hk, and_assoc]

theorem DecTable.entriesWellFormed_eq_false_iff {dec : DecTable} :
    dec.entriesWellFormed = false ↔ ∃ o d, dec o = some d ∧
      ((d.kind = .add ∧ d.dest ≠ .outputPort ∧ d.dest ≠ .registerA ∧ d.dest ≠ .registerB) ∨
       ((d.kind = .mov ∨ d.kind = .inp) ∧ d.dest ≠ .registerA ∧ d.dest ≠ .registerB)) := by
  simp only [← Descriptor.wellFormed_eq_false_iff]
  simp [DecTable.entriesWellFormed, mem_opcodes, Option.all_eq_false]

theorem DecTable.wellFormed_eq_false_iff {dec : DecTable} :
    dec.wellFormed = false ↔ dec.lacksUndefined = false ∨ dec.coversKinds = false ∨ dec.hasOutImmediate = false ∨
      dec.entriesWellFormed = false := by
  simp only [DecTable.wellFormed, Bool.and_eq_false_iff, or_assoc]

end Sys2Proof

namespace Sys2Proof.Machine

/-- The table check is the only ground for refusing a table (D14): the front refuses for want of a Reset alone. -/
theorem stepWith_eq_illFormedTable_iff {dec : DecTable} {s : State} :
    stepWith dec s = .refused .illFormedTable ↔ dec.wellFormed = false := by
  refine ⟨fun h => ?_, stepWith_of_illFormed⟩
  by_contra hdec
  rw [Bool.not_eq_false] at hdec
  rcases front_cases s with ⟨_, hf⟩ | ⟨_, _, hf⟩ | ⟨_, _, v, _, hf⟩ | ⟨_, _, _, hf⟩
  · cases (stepWith_of_done hdec hf).symm.trans h
  · cases (stepWith_of_done hdec hf).symm.trans h
  · cases (stepWith_of_fetched hdec hf).symm.trans h
  · cases (stepWith_of_done hdec hf).symm.trans h

/-- Settles O9: the Step refuses what fails the table check, which fails by one of its four parts. -/
theorem illFormedTableIsRefused : Obligations.IllFormedTableIsRefused := by
  refine ⟨decDefault_wellFormed, fun dec s => ?_⟩
  rw [stepWith_eq_illFormedTable_iff, DecTable.wellFormed_eq_false_iff, DecTable.lacksUndefined_eq_false_iff,
    DecTable.coversKinds_eq_false_iff, DecTable.hasOutImmediate_eq_false_iff, DecTable.entriesWellFormed_eq_false_iff]

/-! ### The closed form (R78) -/

/-- Phase 5's counter is that of the closed form. -/
theorem nextPc_eq_closedPc (s : State) (d : Descriptor) (v : Byte) :
    nextPc d.kind (s.addResult d v) (s.afterAdd d v) =
      closedPc d ((s.latch v).operandSum d) (s.cf || decide ((s.latch v).operandSum d > 15)) s := by
  rw [nextPc_eq, State.addResult_toNat]; rfl

/-- An entry's run on the uniform path is R78 written out for that entry. -/
theorem State.runEntry_eq_closedStep {dec : DecTable} {s : State} {d : Descriptor} {v : Byte}
    (hd : decodeEntry dec v = some d) : s.runEntry d v = s.closedStep dec v := by
  have hres : s.addResult d v = BitVec.ofNat 4 ((s.latch v).operandSum d % 16) :=
    BitVec.eq_of_toNat_eq (by simp [State.addResult_toNat])
  have houtput : writesOutput d = true ↔ d.kind = .out ∨ (d.kind = .add ∧ d.dest = .outputPort) := by
    simp [writesOutput]
  rw [decodeEntry] at hd
  rw [runEntry_fields, nextPc_eq_closedPc, hres, State.closedStep, hd, State.mk.injEq]
  refine ⟨rfl, rfl, rfl, rfl, if_congr houtput rfl rfl, rfl, ?_, rfl, rfl, rfl, rfl⟩
  by_cases hk : d.kind = .jnc
  · simp [hk]
  · simp only [hk, if_false, ne_eq, not_false_eq_true, decide_true, Bool.and_true]; rfl

theorem State.runUndefined_eq_closedStep {dec : DecTable} {s : State} {v : Byte} (hd : decodeEntry dec v = none) :
    s.runUndefined v = s.closedStep dec v := by
  rw [decodeEntry] at hd
  rw [State.closedStep, hd, State.runUndefined_eq]

/-- Settles O8: the fetched byte runs its entry or, having none, takes the fatal condition; both are the closed form. -/
theorem tableStepIsClosedForm : Obligations.TableStepIsClosedForm := by
  intro dec s v hdec he hl hv
  rw [stepWith_of_fetched hdec (State.front_of_byte he hl hv)]
  cases hd : decodeEntry dec v with
  | none => rw [State.runTable_of_none hd, State.runUndefined_eq_closedStep hd]
  | some d => rw [State.runTable_of_some hd, State.runEntry_eq_closedStep hd]

end Sys2Proof.Machine

/-! The machine over Steps, operations and runs (spec/10_state.md, spec/60_exceptions.md, spec/70_reset_and_hazards.md): what
one Step leaves, told once, and from it the invariants, the reports and the ends of a run. -/

namespace Sys2Proof.Machine

/-! ### One Step -/

section

variable {dec : DecTable} {s t : State} {v : Byte}

theorem State.runTable_ir (dec : DecTable) (s : State) (v : Byte) : (s.runTable dec v).ir = v := by
  cases hd : decodeEntry dec v with
  | none => rw [State.runTable_of_none hd]; rfl
  | some d => rw [State.runTable_of_some hd, State.runEntry_ir]

/-- No Step writes the input port (R15) or the reset bit, whatever the table. -/
theorem stepWith_inp_everReset (h : stepWith dec s = .next t) : t.inp = s.inp ∧ t.everReset = s.everReset := by
  obtain ⟨_, _, rfl⟩ | ⟨_, _, v, _, ⟨_, rfl⟩ | ⟨d, _, rfl⟩⟩ := stepWith_next_cases h
  · exact ⟨rfl, rfl⟩
  · exact ⟨rfl, rfl⟩
  · exact ⟨State.runEntry_inp, State.runEntry_everReset⟩

theorem step_inp (h : step s = .next t) : t.inp = s.inp :=
  (stepWith_inp_everReset (stepWith_default_of_step h)).1

theorem step_everReset (h : step s = .next t) : t.everReset = true := by
  obtain ⟨he, -⟩ := step_next_cases h
  exact (stepWith_inp_everReset (stepWith_default_of_step h)).2.trans he

/-- The three reports, each with the latch and the program counter it comes with (R70, R76, R98). -/
theorem step_report_cases (h : step s = .next t) :
    (t.report = some .fatal ∧ t.flt = true) ∨ (t.report = some .halt ∧ t.flt = false ∧ t.pc = 0) ∨
    (t.report = some .cont ∧ t.flt = false) := by
  obtain ⟨_, hl, rfl⟩ | ⟨_, hl, v, _, ⟨_, rfl⟩ | ⟨d, _, rfl⟩⟩ := stepWith_next_cases (stepWith_default_of_step h)
  · exact .inl ⟨rfl, hl⟩
  · exact .inl ⟨rfl, rfl⟩
  · have hflt : (s.runEntry d v).flt = false := State.runEntry_flt.trans hl
    rcases (s.runEntry_landed d v).report_eq with ⟨hpc, hr⟩ | ⟨_, hr⟩
    · exact .inr (.inl ⟨hr, hflt, hpc⟩)
    · exact .inr (.inr ⟨hr, hflt⟩)

/-- A byte's instruction answers a next state with the byte in `IR`. -/
theorem exec_decodeByte_next (v : Byte) (s : State) : ∃ t, exec (decodeByte v) s = .next t ∧ t.ir = v :=
  ⟨_, exec_decodeByte v s, State.runTable_ir decDefault s v⟩

end

/-- Settles O6: the front fetches the byte, and `IR` holds it after either way of running it. -/
theorem stepRunsDecodedInstruction : Obligations.StepRunsDecodedInstruction := by
  intro s v i he hl hv hdecode
  obtain rfl : decodeByte v = i := by simpa [decode] using hdecode
  exact ⟨step_of_byte he hl hv, exec_decodeByte_next v s⟩

/-- Settles O34: a Step keeps `pc` or lands it, at 0 or below 15. -/
theorem pcStaysBelow15ForEveryTable : Obligations.PcStaysBelow15ForEveryTable := by
  intro dec s t hpc h
  obtain ⟨_, _, rfl⟩ | ⟨_, _, v, _, ⟨_, rfl⟩ | ⟨d, _, rfl⟩⟩ := stepWith_next_cases h
  · exact hpc
  · exact hpc
  · rcases (s.runEntry_landed d v).report_eq with ⟨hzero, _⟩ | ⟨hlt, _⟩
    · rw [hzero]; decide
    · exact Nat.le_of_lt_succ hlt

theorem step_pc_le {s t : State} (hpc : s.pc.toNat ≤ 14) (h : step s = .next t) : t.pc.toNat ≤ 14 :=
  pcStaysBelow15ForEveryTable decDefault s t hpc (stepWith_default_of_step h)

/-- Settles O45: by the three reports of a Step. -/
theorem stepReports : Obligations.StepReports := by
  intro s t h
  rcases step_report_cases h with ⟨hr, hl⟩ | ⟨hr, hl, hpc⟩ | ⟨hr, hl⟩
  · simp [State.haltSignal, State.fatalSignal, hr, hl]
  · simp [State.haltSignal, State.fatalSignal, hr, hl, hpc]
  · simp [State.haltSignal, State.fatalSignal, hr, hl]

/-- Settles O46: with a byte at `pc` the front ends in the latched state or fetches, and every instruction answers. -/
theorem everyStepCompletes : Obligations.EveryStepCompletes := by
  intro s he hbyte
  obtain ⟨v, hv⟩ := Option.isSome_iff_exists.mp hbyte
  cases hl : s.flt with
  | true => exact ⟨_, step_of_latched he hl⟩
  | false => exact ⟨_, (step_of_byte he hl hv).trans (exec_decodeByte v s)⟩

/-- Settles O47: after `Halt` the latch is clear and `pc` is 0, so the next front fetches the byte at 0. -/
theorem stepAfterCompletion : Obligations.StepAfterCompletion := by
  intro s t v h hhalt hv
  obtain ⟨hfatal, hatZero, -⟩ := stepReports s t h
  obtain ⟨hpc, hl⟩ := hatZero hhalt
  have hread : t.rom.read t.pc.toNat = some v := by rw [step_rom h, hpc]; exact hv
  have hnext := step_of_byte (step_everReset h) hl hread
  obtain ⟨u, hexec, hir⟩ := exec_decodeByte_next v t
  exact ⟨hl, hpc, hnext, u, hnext.trans hexec, hir⟩

/-- Settles O50: the front refuses before it reads anything else, and Reset keeps nothing of the power-on state but the ROM.
-/
theorem neverResetIsRefused : Obligations.NeverResetIsRefused := by
  have hrefused : ∀ s : State, s.everReset = false → step s = .refused .neverReset :=
    fun _ he => step_of_done (State.front_of_neverReset he)
  exact ⟨hrefused, fun rom => ⟨hrefused _ rfl, rfl⟩⟩

/-- Settles O51: the front ends in the fault that names `pc`. -/
theorem openRomByteStops : Obligations.OpenRomByteStops :=
  fun _ he hl hv => step_of_done (State.front_of_open he hl hv)

/-! ### Reset, the clock and the invariant -/

/-- Settles O36: field by field; what is left over is the ROM alone. -/
theorem resetValues : Obligations.ResetValues := fun s =>
  ⟨rfl, s.applyReset_ir, s.applyReset_a, s.applyReset_b, s.applyReset_inp, s.applyReset_outp, s.applyReset_pc,
    s.applyReset_cf, s.applyReset_flt, s.applyReset_rom, rfl⟩

/-- Settles O55: in each case one branch of the cycle. -/
theorem clockedCycle : Obligations.ClockedCycle := fun _ stepEn => by
  cases stepEn <;> exact ⟨rfl, rfl, rfl⟩

theorem State.applyReset_inv {s : State} (hrom : s.rom.wf = true) : s.applyReset.Inv :=
  ⟨by simp, by simp, rfl, hrom⟩

/-- Settles O35: the reset state is Reset of itself. -/
theorem resetMeetsInvariant : Obligations.ResetMeetsInvariant :=
  ⟨State.applyReset_inv (s := State.reset) State.reset_rom_wf, fun _ => State.applyReset_inv⟩

theorem step_inv {s t : State} (hs : s.Inv) (h : step s = .next t) : t.Inv := by
  obtain ⟨hpc, -, -, hrom⟩ := hs
  obtain ⟨hfatal, -⟩ := stepReports s t h
  exact ⟨step_pc_le hpc h, hfatal.symm, step_everReset h, (step_rom h).symm ▸ hrom⟩

/-- Settles O33: a Step lands at an executable address with the report its latch shows, a Reset clears, and `SetInput` writes
what the invariant does not read. -/
theorem everyOperationKeepsInvariant : Obligations.EveryOperationKeepsInvariant := by
  refine ⟨fun s t => step_inv, fun op s t hs h => ?_⟩
  obtain ⟨_, rfl⟩ | ⟨_, hstep⟩ | ⟨v, _, _, rfl⟩ := perform_next_cases h
  · obtain ⟨-, -, -, hrom⟩ := hs
    exact State.applyReset_inv hrom
  · exact step_inv hs hstep
  · exact hs

/-! ### The fatal latch (R68, R102) -/

theorem perform_setInput {v : Nat} (hv : v < 16) (s : State) :
    perform (.setInput v) s = .next (s.setInput (BitVec.ofNat 4 v)) :=
  if_pos hv

/-- Settles O38: a Step keeps the port, and `SetInput` has its range check. -/
theorem inputPortWriters : Obligations.InputPortWriters := by
  refine ⟨fun s t => step_inp, fun v s => ⟨fun hv => ⟨_, perform_setInput hv s, ?_, rfl⟩, fun hv => ?_⟩⟩
  · rw [State.setInput_inp, BitVec.toNat_ofNat]
    exact Nat.mod_eq_of_lt hv
  · exact if_neg (Nat.not_lt.mpr hv)

/-- Settles O32: along the operations the state stays the first one but for the input port and the report, so it stays
latched and reset. -/
theorem onlyResetLeavesFatal : Obligations.OnlyResetLeavesFatal := by
  intro ops s t he hl hops h
  have keeps : ∀ op ∈ ops, ∀ u w, (∃ inp report, u = { s with inp := inp, report := report }) →
      perform op u = .next w → ∃ inp report, w = { s with inp := inp, report := report } := by
    rintro op hop _ w ⟨inp, report, rfl⟩ hw
    obtain ⟨rfl, _⟩ | ⟨_, hstep⟩ | ⟨v, _, _, rfl⟩ := perform_next_cases hw
    · exact absurd hop hops
    · obtain rfl := Host.Outcome.next.inj ((step_of_latched (s := { s with inp, report }) he hl).symm.trans hstep)
      exact ⟨inp, some .fatal, rfl⟩
    · exact ⟨_, report, rfl⟩
  obtain ⟨inp, report, rfl⟩ := runOps_preserves keeps ⟨s.inp, s.report, rfl⟩ h
  exact ⟨hl, rfl⟩

/-! ### The carry flag (R20) -/

/-- What each instruction makes of the flag: the two ADDs raise it, a JNC clears it, all others keep it. -/
theorem exec_cf_cases {i : Instr} {s t : State} (h : exec i s = .next t) :
    (∃ imm, i = .addAIm imm ∧ t.cf = (s.cf || decide (s.a.toNat + imm.toNat > 15))) ∨
    (∃ imm, i = .addBIm imm ∧ t.cf = (s.cf || decide (s.b.toNat + imm.toNat > 15))) ∨
    (∃ imm, i = .jncIm imm ∧ t.cf = false) ∨
    ((∀ imm, i ≠ .jncIm imm) ∧ t.cf = s.cf) := by
  cases i
  case addAIm imm =>
    obtain ⟨-, u, hu, -, -, -, hcf, -⟩ := addAImmediate imm s
    cases hu.symm.trans h
    exact .inl ⟨imm, rfl, hcf⟩
  case addBIm imm =>
    obtain ⟨-, u, hu, -, -, -, hcf, -⟩ := addBImmediate imm s
    cases hu.symm.trans h
    exact .inr (.inl ⟨imm, rfl, hcf⟩)
  case jncIm imm =>
    cases h
    exact .inr (.inr (.inl ⟨imm, rfl, State.runEntry_cf_of_jnc rfl⟩))
  case undefined8 | undefinedA | undefinedC | undefinedD =>
    cases h
    exact .inr (.inr (.inr ⟨by simp, rfl⟩))
  all_goals
    cases h
    exact .inr (.inr (.inr ⟨by simp,
      (State.runEntry_cf_of_ne_jnc (by simp)).trans (State.afterAdd_cf_of_op2_unused rfl)⟩))

/-- Settles O39: by what each instruction makes of the flag. -/
theorem carryWriters : Obligations.CarryWriters := by
  intro i s t h
  rcases exec_cf_cases h with ⟨imm, rfl, hcf⟩ | ⟨imm, rfl, hcf⟩ | ⟨imm, rfl, hcf⟩ | ⟨hne, hcf⟩
  · refine ⟨fun hclear hset => .inl ⟨imm, rfl, ?_⟩, fun hset hclear => ?_, by simp⟩
    · simpa [hclear, hset] using hcf
    · simp [hset, hclear] at hcf
  · refine ⟨fun hclear hset => .inr ⟨imm, rfl, ?_⟩, fun hset hclear => ?_, by simp⟩
    · simpa [hclear, hset] using hcf
    · simp [hset, hclear] at hcf
  · exact ⟨fun _ hset => by simp [hcf] at hset, fun _ _ => ⟨imm, rfl⟩, fun _ _ => hcf⟩
  · exact ⟨fun hclear hset => by simp [hcf, hclear] at hset, fun hset hclear => by simp [hcf, hset] at hclear,
      fun imm hi => absurd hi (hne imm)⟩

theorem step_cf_of_no_jnc {s t : State} (hcf : s.cf = true) (hnojnc : ∀ addr v, s.rom.read addr = some v → Byte.high v ≠ 0xE)
    (h : step s = .next t) : t.cf = true := by
  obtain ⟨-, ⟨_, rfl⟩ | ⟨_, v, hv, hexec⟩⟩ := step_next_cases h
  · exact hcf
  · by_contra hfell
    obtain ⟨-, hfalls, -⟩ := carryWriters _ _ _ hexec
    obtain ⟨imm, hjnc⟩ := hfalls hcf (Bool.eq_false_iff.mpr hfell)
    have hbyte : v = encodeByte (.jncIm imm) := by rw [← hjnc, encodeByte_decodeByte]
    exact hnojnc _ v hv (hbyte ▸ high_append _ imm)

/-- Settles O40: along the operations the flag stays set and the ROM, which holds no JNC, stays as it is. -/
theorem carryIsStickyOverRuns : Obligations.CarryIsStickyOverRuns := by
  intro ops s t hcf hops h hnojnc
  have keeps : ∀ op ∈ ops, ∀ u w, (u.cf = true ∧ u.rom = s.rom) → perform op u = .next w →
      w.cf = true ∧ w.rom = s.rom := by
    rintro op hop u w ⟨hucf, hurom⟩ hw
    refine ⟨?_, (perform_rom hw).trans hurom⟩
    obtain ⟨rfl, _⟩ | ⟨_, hstep⟩ | ⟨v, _, _, rfl⟩ := perform_next_cases hw
    · exact absurd hop hops
    · exact step_cf_of_no_jnc hucf (hurom ▸ hnojnc) hstep
    · exact hucf
  obtain ⟨hend, -⟩ := runOps_preserves keeps ⟨hcf, rfl⟩ h
  exact hend

/-! ### The output port, and what feeds nothing -/

/-- The output pulse of one Step: what it leaves at the port is 0 unless it ran an OUT (R75, D4). -/
theorem step_outp {s t : State} (h : step s = .next t) (hl : t.flt = false) :
    t.outp = 0 ∨ Byte.high t.ir = 0x9 ∨ Byte.high t.ir = 0xB := by
  obtain ⟨_, hlatched, rfl⟩ | ⟨_, _, v, _, ⟨_, rfl⟩ | ⟨d, hd, rfl⟩⟩ := stepWith_next_cases (stepWith_default_of_step h)
  · cases hlatched.symm.trans hl
  · cases hl
  · rw [State.runEntry_ir]
    cases hout : writesOutput d with
    | true => exact .inr (opcode_of_writesOutput _ d hd hout)
    | false => exact .inl (State.runEntry_outp_of_not_output hout)

/-- Settles O41: the pulse of each of the two Steps. -/
theorem outputPulse : Obligations.OutputPulse := by
  intro s t u ht htl hu hul
  exact ⟨fun hne => (step_outp ht htl).resolve_left hne,
    fun h9 hB => (step_outp hu hul).resolve_right fun hout => hout.elim h9 hB⟩

theorem exec_of_wellFormed {i : Instr} (hi : i.wellFormed = true) :
    ∃ d, ∀ s, exec i s = .next (s.runEntry d (encodeByte i)) := by
  rw [← isSome_decodeEntry_encodeByte, Option.isSome_iff_exists] at hi
  obtain ⟨d, hd⟩ := hi
  exact ⟨d, fun s => (exec_eq_runTable i s).trans (congrArg _ (State.runTable_of_some hd))⟩

theorem exec_of_undefined {i : Instr} (hi : i.wellFormed = false) (s : State) :
    exec i s = .next (s.runUndefined (encodeByte i)) := by
  rw [← isSome_decodeEntry_encodeByte, Option.isSome_eq_false_iff, Option.isNone_iff_eq_none] at hi
  exact (exec_eq_runTable i s).trans (congrArg _ (State.runTable_of_none hi))

/-- What was in `IR`, at the output port and in the report is overwritten before it is read. -/
theorem State.runEntry_of_old_ir_outp_report (s : State) (d : Descriptor) (v ir : Byte) (outp : Nibble)
    (r : Option StepReport) :
    ({ s with ir := ir, outp := outp, report := r } : State).runEntry d v = s.runEntry d v := by
  have h := State.runEntry_congr_of_cf (s := s) (s' := { s with ir := ir, outp := outp, report := r }) (v := v) (v' := v)
    (State.operandSum_latch_congr rfl rfl rfl d v) rfl rfl rfl rfl
  rw [h, runEntry_fields s d v]

/-- Settles O42: the Selector reads none of the three, and the path overwrites all of them. -/
theorem oldIrAndOutputFeedNothing : Obligations.OldIrAndOutputFeedNothing := by
  refine fun s ir outp r => ⟨fun i hi => ?_, fun i hi => ?_⟩
  · obtain ⟨d, hexec⟩ := exec_of_wellFormed hi
    rw [hexec, hexec, State.runEntry_of_old_ir_outp_report]
  · exact ⟨_, exec_of_undefined hi s, exec_of_undefined hi _⟩

/-! ### The byte at address 15 (R43) -/

theorem State.runEntry_withRom (s : State) (d : Descriptor) (v : Byte) (rom : Memory) :
    (s.withRom rom).runEntry d v = (s.runEntry d v).withRom rom := by
  have h := State.runEntry_congr_of_cf (s := s) (s' := s.withRom rom) (v := v) (v' := v)
    (State.operandSum_latch_congr rfl rfl rfl d v) rfl rfl rfl rfl
  rw [h, runEntry_fields s d v]
  rfl

/-- An instruction neither reads nor writes the ROM. -/
theorem exec_withRom {i : Instr} {s t : State} (h : exec i s = .next t) (rom : Memory) :
    exec i (s.withRom rom) = .next (t.withRom rom) := by
  cases hi : i.wellFormed with
  | true =>
    obtain ⟨d, hexec⟩ := exec_of_wellFormed hi
    cases (hexec s).symm.trans h
    rw [hexec, State.runEntry_withRom]
  | false =>
    cases (exec_of_undefined hi s).symm.trans h
    exact exec_of_undefined hi _

theorem step_withRom {s t : State} {rom : Memory} (hpc : s.pc.toNat ≤ 14) (hrom : AgreeBelow15 s.rom rom)
    (h : step s = .next t) : step (s.withRom rom) = .next (t.withRom rom) := by
  obtain ⟨he, ⟨hl, rfl⟩ | ⟨hl, v, hv, hexec⟩⟩ := step_next_cases h
  · exact step_of_latched he hl
  · have hread : rom.read s.pc.toNat = some v := by rw [← hrom _ (Nat.lt_succ_of_le hpc), hv]
    exact (step_of_byte (s := s.withRom rom) he hl hread).trans (exec_withRom hexec rom)

theorem perform_withRom {op : HostOp} {s t : State} {rom : Memory} (hpc : s.pc.toNat ≤ 14) (hrom : AgreeBelow15 s.rom rom)
    (h : perform op s = .next t) : perform op (s.withRom rom) = .next (t.withRom rom) := by
  obtain ⟨rfl, rfl⟩ | ⟨rfl, hstep⟩ | ⟨v, rfl, hv, rfl⟩ := perform_next_cases h
  · rfl
  · exact step_withRom hpc hrom hstep
  · exact perform_setInput hv _

theorem perform_pc_le {op : HostOp} {s t : State} (hpc : s.pc.toNat ≤ 14) (h : perform op s = .next t) :
    t.pc.toNat ≤ 14 := by
  obtain ⟨_, rfl⟩ | ⟨_, hstep⟩ | ⟨v, _, _, rfl⟩ := perform_next_cases h
  · simp
  · exact step_pc_le hpc hstep
  · exact hpc

/-- Settles O43: by induction on the operations; each fetches below 15, where the images agree. -/
theorem byteAt15IsDead : Obligations.ByteAt15IsDead := by
  intro ops s t rom hpc hrom h
  induction ops generalizing s with
  | nil => cases h; rfl
  | cons op ops ih =>
    obtain ⟨u, hop, hrest⟩ := runOps_cons_eq_next.mp h
    have hu : AgreeBelow15 u.rom rom := (perform_rom hop).symm ▸ hrom
    exact runOps_cons_eq_next.mpr ⟨_, perform_withRom hpc hrom hop, ih u (perform_pc_le hpc hop) hu hrest⟩

/-! ### Runs (R124) -/

section

variable {s t : State} {n : Nat}

theorem runUntilEnd_succ_of_halt (h : step s = .next t) (hr : t.report = some .halt) :
    runUntilEnd (n + 1) s = .completed t := by
  simp only [runUntilEnd, h, hr]

theorem runUntilEnd_succ_of_fatal (h : step s = .next t) (hr : t.report = some .fatal) :
    runUntilEnd (n + 1) s = .faulted t := by
  simp only [runUntilEnd, h, hr]

theorem runUntilEnd_succ_of_cont (h : step s = .next t) (hr : t.report = some .cont) :
    runUntilEnd (n + 1) s = runUntilEnd n t := by
  simp only [runUntilEnd, h, hr]

theorem runUntilEnd_succ_of_no_next (h : ∀ t, step s ≠ .next t) : runUntilEnd (n + 1) s = .stopped := by
  cases hs : step s with
  | next t => exact absurd hs (h t)
  | fault | refused => simp only [runUntilEnd, hs]

end

/-- What the first Step of a run can do: end it by its report, let it go on, or have no outcome. -/
theorem step_run_cases (s : State) :
    (∃ t, step s = .next t ∧ t.report = some .halt) ∨ (∃ t, step s = .next t ∧ t.report = some .fatal) ∨
    (∃ t, step s = .next t ∧ t.report = some .cont) ∨ (∀ t, step s ≠ .next t) := by
  by_cases h : ∃ t, step s = .next t
  · obtain ⟨t, ht⟩ := h
    rcases step_report_cases ht with ⟨hr, _⟩ | ⟨hr, _⟩ | ⟨hr, _⟩
    · exact .inr (.inl ⟨t, ht, hr⟩)
    · exact .inl ⟨t, ht, hr⟩
    · exact .inr (.inr (.inl ⟨t, ht, hr⟩))
  · exact .inr (.inr (.inr fun t ht => h ⟨t, ht⟩))

/-- Settles O31: the front ends every Step with the report `Fatal`, so a run ends with its first. -/
theorem latchedMachineIsStuck : Obligations.LatchedMachineIsStuck := by
  intro s he hl
  refine ⟨step_of_latched he hl, fun v hv => perform_setInput hv s, fun n hn => ?_⟩
  obtain ⟨m, rfl⟩ := Nat.exists_eq_succ_of_ne_zero hn
  exact runUntilEnd_succ_of_fatal (step_of_latched he hl) rfl

/-- A run that has completed ended in a `Halt`. -/
theorem runUntilEnd_completed {n : Nat} {s t : State} (h : runUntilEnd n s = .completed t) :
    t.pc = 0 ∧ t.flt = false ∧ t.rom = s.rom := by
  induction n generalizing s with
  | zero => cases h
  | succ n ih =>
    rcases step_run_cases s with ⟨u, hu, hr⟩ | ⟨u, hu, hr⟩ | ⟨u, hu, hr⟩ | hstop
    · cases (runUntilEnd_succ_of_halt hu hr).symm.trans h
      obtain ⟨-, hhalt, -⟩ := stepReports s t hu
      obtain ⟨hpc, hl⟩ := hhalt hr
      exact ⟨hpc, hl, step_rom hu⟩
    · cases (runUntilEnd_succ_of_fatal hu hr).symm.trans h
    · obtain ⟨hpc, hl, hrom⟩ := ih ((runUntilEnd_succ_of_cont hu hr).symm.trans h)
      exact ⟨hpc, hl, hrom.trans (step_rom hu)⟩
    · cases (runUntilEnd_succ_of_no_next hstop).symm.trans h

/-- A run that has faulted ended in a `Fatal`. -/
theorem runUntilEnd_faulted {n : Nat} {s t : State} (h : runUntilEnd n s = .faulted t) : t.flt = true ∧ t.rom = s.rom := by
  induction n generalizing s with
  | zero => cases h
  | succ n ih =>
    rcases step_run_cases s with ⟨u, hu, hr⟩ | ⟨u, hu, hr⟩ | ⟨u, hu, hr⟩ | hstop
    · cases (runUntilEnd_succ_of_halt hu hr).symm.trans h
    · cases (runUntilEnd_succ_of_fatal hu hr).symm.trans h
      obtain ⟨hfatal, -⟩ := stepReports s t hu
      exact ⟨hfatal.mp hr, step_rom hu⟩
    · obtain ⟨hl, hrom⟩ := ih ((runUntilEnd_succ_of_cont hu hr).symm.trans h)
      exact ⟨hl, hrom.trans (step_rom hu)⟩
    · cases (runUntilEnd_succ_of_no_next hstop).symm.trans h

/-- A run still running after at least one Step got a `Continue` from the first, and runs on from where that Step led. -/
theorem runUntilEnd_succ_running_iff {n : Nat} {s t : State} :
    runUntilEnd (n + 1) s = .running t ↔
      ∃ u, step s = .next u ∧ u.report = some .cont ∧ runUntilEnd n u = .running t := by
  constructor
  · intro h
    rcases step_run_cases s with ⟨u, hu, hr⟩ | ⟨u, hu, hr⟩ | ⟨u, hu, hr⟩ | hstop
    · cases (runUntilEnd_succ_of_halt hu hr).symm.trans h
    · cases (runUntilEnd_succ_of_fatal hu hr).symm.trans h
    · exact ⟨u, hu, hr, (runUntilEnd_succ_of_cont hu hr).symm.trans h⟩
    · cases (runUntilEnd_succ_of_no_next hstop).symm.trans h
  · rintro ⟨u, hu, hr, h⟩
    exact (runUntilEnd_succ_of_cont hu hr).trans h

theorem runUntilEnd_zero_running_iff {s t : State} : runUntilEnd 0 s = .running t ↔ t = s := by
  simp [runUntilEnd, eq_comm]

/-- A run still running is where its last Step, if any, led with a `Continue`. -/
theorem runUntilEnd_running {n : Nat} {s t : State} (h : runUntilEnd n s = .running t) :
    t.rom = s.rom ∧ (n = 0 → t = s) ∧ (n ≠ 0 → t.report = some .cont ∧ t.flt = false) := by
  induction n generalizing s with
  | zero =>
    obtain rfl := runUntilEnd_zero_running_iff.mp h
    exact ⟨rfl, fun _ => rfl, fun hne => absurd rfl hne⟩
  | succ n ih =>
    obtain ⟨u, hu, hr, hrun⟩ := runUntilEnd_succ_running_iff.mp h
    obtain ⟨hrom, hzero, hsucc⟩ := ih hrun
    refine ⟨hrom.trans (step_rom hu), by simp, fun _ => ?_⟩
    rcases Nat.eq_zero_or_pos n with hn | hn
    · obtain rfl := hzero hn
      obtain ⟨hfatal, -⟩ := stepReports s t hu
      exact ⟨hr, by simpa [hr] using hfatal⟩
    · exact hsucc hn.ne'

/-- A run is stopped exactly when, within the Steps allowed, it came to a state whose Step has no next state. -/
theorem runUntilEnd_stopped_iff {n : Nat} {s : State} :
    runUntilEnd n s = .stopped ↔ ∃ m t, m < n ∧ runUntilEnd m s = .running t ∧ ∀ u, step t ≠ .next u := by
  constructor
  · intro h
    induction n generalizing s with
    | zero => cases h
    | succ n ih =>
      rcases step_run_cases s with ⟨u, hu, hr⟩ | ⟨u, hu, hr⟩ | ⟨u, hu, hr⟩ | hstop
      · cases (runUntilEnd_succ_of_halt hu hr).symm.trans h
      · cases (runUntilEnd_succ_of_fatal hu hr).symm.trans h
      · obtain ⟨m, t, hm, hrun, hstop⟩ := ih ((runUntilEnd_succ_of_cont hu hr).symm.trans h)
        exact ⟨m + 1, t, Nat.succ_lt_succ hm, runUntilEnd_succ_running_iff.mpr ⟨u, hu, hr, hrun⟩, hstop⟩
      · exact ⟨0, s, n.succ_pos, rfl, hstop⟩
  · rintro ⟨m, t, hm, hrun, hstop⟩
    obtain ⟨k, rfl⟩ := Nat.exists_eq_add_of_lt hm
    clear hm
    induction m generalizing s with
    | zero =>
      obtain rfl := runUntilEnd_zero_running_iff.mp hrun
      exact runUntilEnd_succ_of_no_next hstop
    | succ m ih =>
      obtain ⟨u, hu, hr, hrest⟩ := runUntilEnd_succ_running_iff.mp hrun
      rw [show m + 1 + k + 1 = (m + k + 1) + 1 by omega, runUntilEnd_succ_of_cont hu hr]
      exact ih hrest

/-- One more Step allowed does not change a run that has ended by a report. -/
theorem runUntilEnd_succ_of_ended {n : Nat} {s : State} {e : RunEnd} (he : (∃ t, e = .completed t) ∨ ∃ t, e = .faulted t)
    (h : runUntilEnd n s = e) : runUntilEnd (n + 1) s = e := by
  induction n generalizing s with
  | zero =>
    obtain ⟨t, rfl⟩ | ⟨t, rfl⟩ := he <;> cases h
  | succ n ih =>
    rcases step_run_cases s with ⟨u, hu, hr⟩ | ⟨u, hu, hr⟩ | ⟨u, hu, hr⟩ | hstop
    · rw [runUntilEnd_succ_of_halt hu hr] at h ⊢; exact h
    · rw [runUntilEnd_succ_of_fatal hu hr] at h ⊢; exact h
    · rw [runUntilEnd_succ_of_cont hu hr] at h ⊢; exact ih h
    · rw [runUntilEnd_succ_of_no_next hstop] at h ⊢; exact h

theorem runUntilEnd_of_ended_le {n m : Nat} {s : State} {e : RunEnd} (he : (∃ t, e = .completed t) ∨ ∃ t, e = .faulted t)
    (h : runUntilEnd n s = e) (hm : n ≤ m) : runUntilEnd m s = e :=
  Nat.le_induction h (fun _ _ ih => runUntilEnd_succ_of_ended he ih) m hm

/-- Settles O48: each end by induction on the Steps allowed, by what the first Step did. -/
theorem runEnds : Obligations.RunEnds := fun _ _ =>
  ⟨fun _ => runUntilEnd_completed, fun _ => runUntilEnd_faulted, fun _ => runUntilEnd_running, runUntilEnd_stopped_iff,
    fun t _ => runUntilEnd_of_ended_le (.inl ⟨t, rfl⟩), fun t _ => runUntilEnd_of_ended_le (.inr ⟨t, rfl⟩)⟩

/-- A jump to its own executable address comes back to itself with nothing of the fetch changed. -/
theorem step_selfJump {s : State} (he : s.everReset = true) (hl : s.flt = false) (hpc : s.pc.toNat ≤ 14)
    (hv : s.rom.read s.pc.toNat = some (0xF#4 ++ s.pc)) :
    ∃ t, step s = .next t ∧ t.report = some .cont ∧ t.pc = s.pc ∧ t.flt = false := by
  obtain ⟨-, t, hexec, ⟨-, hland⟩, -, -, -, -, -, -, hflt, -⟩ := jumpImmediate s.pc s
  obtain ⟨htarget, hreport⟩ := hland (Nat.lt_succ_of_le hpc)
  have hdecode : decodeByte (0xF#4 ++ s.pc) = .jmpIm s.pc := decodeByte_encodeByte (.jmpIm s.pc)
  exact ⟨t, by rw [step_of_byte he hl hv, hdecode, hexec], hreport, BitVec.eq_of_toNat_eq htarget, hflt.trans hl⟩

/-- Settles O49: by induction on the Steps allowed, as the first one leads back to a jump to its own address. -/
theorem selfJumpNeverEnds : Obligations.SelfJumpNeverEnds := by
  intro s n he hl hpc hv
  suffices hrun : ∃ t, runUntilEnd n s = .running t ∧ t.pc = s.pc by
    obtain ⟨t, ht, hsame⟩ := hrun
    obtain ⟨-, -, hcont⟩ := runUntilEnd_running ht
    exact ⟨t, ht, hsame, fun hn => (hcont hn).1⟩
  induction n generalizing s with
  | zero => exact ⟨s, rfl, rfl⟩
  | succ n ih =>
    obtain ⟨u, hu, hr, hsame, hul⟩ := step_selfJump he hl hpc hv
    have huv : u.rom.read u.pc.toNat = some (0xF#4 ++ u.pc) := by rw [step_rom hu, hsame, hv]
    obtain ⟨t, ht, htpc⟩ := ih u (step_everReset hu) hul (hsame ▸ hpc) huv
    exact ⟨t, (runUntilEnd_succ_of_cont hu hr).trans ht, htpc.trans hsame⟩

end Sys2Proof.Machine

/-! The three Storages (spec/40_datapath.md R60, R100; spec/10_state.md R11, R20) and the placing of a byte from outside
(log 1): what a read gives after a write, at the same slot and at every other one. -/

namespace Sys2Proof.Machine

/-! ### The ROM as a memory -/

theorem Memory.read_write_same (m : Memory) (addr : Nat) (v : Byte) : (m.write addr v).read addr = some v := by
  induction m with
  | nil => simp [Memory.write, Memory.read]
  | cons p rest ih =>
    obtain ⟨x, w⟩ := p
    unfold Memory.write
    split
    · simp [Memory.read]
    · split
      · simp [Memory.read]
      · have hne : x ≠ addr := by omega
        simpa [Memory.read, hne] using ih

theorem Memory.read_write_ne (m : Memory) {addr addr' : Nat} (v : Byte) (hne : addr' ≠ addr) :
    (m.write addr v).read addr' = m.read addr' := by
  induction m with
  | nil => simp [Memory.write, Memory.read, hne.symm]
  | cons p rest ih =>
    obtain ⟨x, w⟩ := p
    unfold Memory.write
    split
    · simp [Memory.read, hne.symm]
    · split
      next heq => simp [Memory.read, ← heq, hne.symm]
      next => simp [Memory.read, ih]

/-! ### Reading a Storage -/

/-- A register slot is named exactly below the register file's size. -/
theorem State.slot_eq_none_iff (s : State) : ∀ i, s.slot i = none ↔ Config.rfSlots ≤ i
  | 0 | 1 | 2 | 3 | 4 => by simp [State.slot, Config.rfSlots]
  | i + 5 => by simp [State.slot, Config.rfSlots]

theorem State.setSlot_eq_none_iff (s : State) (v : Byte) : ∀ i, s.setSlot i v = none ↔ Config.rfSlots ≤ i
  | 0 | 1 | 2 | 3 | 4 => by simp [State.setSlot, Config.rfSlots]
  | i + 5 => by simp [State.setSlot, Config.rfSlots]

section

variable {s t : State} {st : Storage} {addr : Nat} {v : Byte}

theorem State.storageRead_of_size_le (h : st.size ≤ addr) : s.storageRead st addr = .outOfRange := if_pos h

theorem State.storageWrite_of_size_le (h : st.size ≤ addr) : s.storageWrite st addr v = none := if_pos h

theorem State.storageRead_rom_of_some (h : addr < Storage.size .rom) (hv : s.rom.read addr = some v) :
    s.storageRead .rom addr = .byte v := by
  simp only [State.storageRead, if_neg (Nat.not_le.mpr h), hv]

theorem State.storageRead_rom_of_none (h : addr < Storage.size .rom) (hv : s.rom.read addr = none) :
    s.storageRead .rom addr = .romOpen addr := by
  simp only [State.storageRead, if_neg (Nat.not_le.mpr h), hv]

theorem State.storageRead_registerFile_of_some (hv : s.slot addr = some v) : s.storageRead .registerFile addr = .byte v := by
  have hlt : ¬ Storage.size .registerFile ≤ addr := fun hle => by
    rw [(s.slot_eq_none_iff addr).mpr hle] at hv
    cases hv
  simp only [State.storageRead, if_neg hlt, hv]

theorem State.storageRead_status (h : addr < Storage.size .status) :
    s.storageRead .status addr = .byte (BitVec.ofNat 8 s.cf.toNat) :=
  if_neg (Nat.not_le.mpr h)

/-- A read inside the Storage finds a value, or at the ROM an address without a byte. -/
theorem State.storageRead_ne_outOfRange (h : addr < st.size) : s.storageRead st addr ≠ .outOfRange := by
  cases st with
  | rom =>
    cases hv : s.rom.read addr with
    | none => simp [State.storageRead_rom_of_none h hv]
    | some v => simp [State.storageRead_rom_of_some h hv]
  | registerFile =>
    cases hv : s.slot addr with
    | none => exact absurd ((s.slot_eq_none_iff addr).mp hv) (Nat.not_le.mpr h)
    | some v => simp [State.storageRead_registerFile_of_some hv]
  | status => simp [State.storageRead_status h]

theorem State.storageRead_eq_outOfRange_iff : s.storageRead st addr = .outOfRange ↔ st.size ≤ addr :=
  ⟨fun h => Nat.not_lt.mp fun hlt => State.storageRead_ne_outOfRange hlt h, State.storageRead_of_size_le⟩

theorem State.storageWrite_rom (h : addr < Storage.size .rom) :
    s.storageWrite .rom addr v = some { s with rom := s.rom.write addr v } :=
  if_neg (Nat.not_le.mpr h)

theorem State.storageWrite_registerFile (h : addr < Storage.size .registerFile) :
    s.storageWrite .registerFile addr v = s.setSlot addr v :=
  if_neg (Nat.not_le.mpr h)

theorem State.storageWrite_status (h : addr < Storage.size .status) :
    s.storageWrite .status addr v = some { s with cf := v.getLsbD 0 } :=
  if_neg (Nat.not_le.mpr h)

/-- What a write that is in range leaves: the ROM's slot, the register file's slot, or the status bit. -/
theorem State.storageWrite_some_cases (h : s.storageWrite st addr v = some t) :
    addr < st.size ∧
    ((st = .rom ∧ t = { s with rom := s.rom.write addr v }) ∨ (st = .registerFile ∧ s.setSlot addr v = some t) ∨
      (st = .status ∧ t = { s with cf := v.getLsbD 0 })) := by
  have hlt : addr < st.size := Nat.not_le.mp fun hle => by
    rw [State.storageWrite_of_size_le hle] at h
    cases h
  refine ⟨hlt, ?_⟩
  cases st with
  | rom => cases (State.storageWrite_rom hlt).symm.trans h; exact .inl ⟨rfl, rfl⟩
  | registerFile => exact .inr (.inl ⟨rfl, (State.storageWrite_registerFile hlt).symm.trans h⟩)
  | status => cases (State.storageWrite_status hlt).symm.trans h; exact .inr (.inr ⟨rfl, rfl⟩)

theorem State.storageWrite_eq_none_iff : s.storageWrite st addr v = none ↔ st.size ≤ addr := by
  refine ⟨fun h => Nat.not_lt.mp fun hlt => ?_, State.storageWrite_of_size_le⟩
  cases st with
  | rom => cases (State.storageWrite_rom hlt).symm.trans h
  | registerFile =>
    have hset : s.setSlot addr v = none := (State.storageWrite_registerFile hlt).symm.trans h
    exact Nat.not_le.mpr hlt ((s.setSlot_eq_none_iff v addr).mp hset)
  | status => cases (State.storageWrite_status hlt).symm.trans h

/-! ### Reading after a write -/

/-- The register file's slots: `IR` keeps the byte, the others its low nibble. -/
theorem State.slot_of_setSlot (h : s.setSlot addr v = some t) :
    t.slot addr = some (if addr = 0 then v else BitVec.ofNat 8 (v.toNat % 16)) := by
  match addr with
  | 0 => cases h; rfl
  | 1 | 2 | 3 | 4 => cases h; exact congrArg some (Byte.setWidth_low v)
  | _ + 5 => cases h

/-- A register slot's write leaves the other slots, the flag and the ROM. -/
theorem State.setSlot_frame (h : s.setSlot addr v = some t) :
    (∀ addr', addr' ≠ addr → t.slot addr' = s.slot addr') ∧ t.cf = s.cf ∧ t.rom = s.rom := by
  match addr with
  | 0 | 1 | 2 | 3 | 4 =>
    cases h
    refine ⟨fun addr' hne => ?_, rfl, rfl⟩
    match addr' with
    | 0 | 1 | 2 | 3 | 4 => simp_all [State.slot]
    | _ + 5 => rfl
  | _ + 5 => cases h

/-- A read sees the one element its Storage and address name. -/
theorem State.storageRead_congr (hrom : st = .rom → t.rom.read addr = s.rom.read addr)
    (hslot : st = .registerFile → t.slot addr = s.slot addr) (hcf : st = .status → addr < Storage.size .status → t.cf = s.cf) :
    t.storageRead st addr = s.storageRead st addr := by
  cases st with
  | rom => simp only [State.storageRead, hrom rfl]
  | registerFile => simp only [State.storageRead, hslot rfl]
  | status =>
    rcases Nat.lt_or_ge addr (Storage.size .status) with hlt | hge
    · rw [State.storageRead_status hlt, State.storageRead_status hlt, hcf rfl hlt]
    · rw [State.storageRead_of_size_le hge, State.storageRead_of_size_le hge]

end

/-- Settles O52: a read or a write fails exactly from the size on, and the 4 bits of `pc` stay below 16. -/
theorem storageRangeExactlyOutside : Obligations.StorageRangeExactlyOutside :=
  ⟨fun _ _ _ _ => ⟨State.storageRead_eq_outOfRange_iff, State.storageWrite_eq_none_iff⟩, rfl, rfl, rfl,
    fun s => State.storageRead_ne_outOfRange s.pc.isLt⟩

/-- Settles O53: by the Storage written, its slot and the elements that the write leaves. -/
theorem storageReadAfterWrite : Obligations.StorageReadAfterWrite := by
  intro s t st addr v h
  obtain ⟨hlt, ⟨rfl, rfl⟩ | ⟨rfl, hset⟩ | ⟨rfl, rfl⟩⟩ := State.storageWrite_some_cases h
  · refine ⟨fun _ => State.storageRead_rom_of_some hlt (Memory.read_write_same _ _ _), by simp, by simp,
      fun st' addr' hother => ?_⟩
    refine State.storageRead_congr (fun hst => ?_) (fun _ => rfl) (fun _ _ => rfl)
    exact Memory.read_write_ne _ v (hother.resolve_left (not_not.mpr hst))
  · have hslot := State.slot_of_setSlot hset
    obtain ⟨hkeep, hcf, hrom⟩ := State.setSlot_frame hset
    refine ⟨fun hir => ?_, fun _ hne => ?_, by simp, fun st' addr' hother => ?_⟩
    · obtain rfl : addr = 0 := by simpa using hir
      exact State.storageRead_registerFile_of_some hslot
    · rw [if_neg hne] at hslot
      exact State.storageRead_registerFile_of_some hslot
    · exact State.storageRead_congr (fun _ => congrArg (Memory.read · addr') hrom)
        (fun hst => hkeep _ (hother.resolve_left (not_not.mpr hst))) (fun _ _ => hcf)
  · refine ⟨by simp, by simp, fun _ => ?_, fun st' addr' hother => ?_⟩
    · rw [State.storageRead_status hlt]
      exact congrArg StorageRead.byte (Byte.ofNat_toNat_bit_zero v)
    · refine State.storageRead_congr (fun _ => rfl) (fun _ => rfl) (fun hst hlt' => ?_)
      have hne : addr' ≠ addr := hother.resolve_left (not_not.mpr hst)
      exact absurd ((Nat.lt_one_iff.mp hlt').trans (Nat.lt_one_iff.mp hlt).symm) hne

/-! ### A byte placed for the host (log 1) -/

theorem State.withFetchWord_eq (s : State) (w : Nat) :
    s.withFetchWord 8 w =
      { s with rom := s.rom.write s.pc.toNat (BitVec.ofNat 8 w), everReset := true, flt := false } := by
  have hbyte : BitVec.ofNat 8 (w % 2 ^ 8) = BitVec.ofNat 8 w := BitVec.eq_of_toNat_eq (by simp)
  rw [State.withFetchWord, tableBytes, hbyte]; rfl

/-- Settles O54: the byte placed at `pc` is the one the front fetches. -/
theorem placedWordRunsNext : Obligations.PlacedWordRunsNext := by
  intro s w
  refine ⟨_, s.withFetchWord_eq w, step_of_byte rfl rfl (Memory.read_write_same _ _ _), fun addr hne => ?_, rfl⟩
  exact Memory.read_write_ne _ _ hne

end Sys2Proof.Machine
